-- ==== Sys2Proof/Word.lean ====
section
/-! DEFINITION. The widths of spec/00_scope.md rule R8: byte, word, double word and physical address. -/

namespace Sys2Proof

/-- 8 bits: a byte, the addressable unit of memory (R60) and of the I/O space (R74). -/
abbrev Byte := BitVec 8

/-- 16 bits: a register, an offset, a segment register value, a port number (R8, R21, R25, R74). -/
abbrev Word := BitVec 16

/-- 32 bits: the pair DX:AX (R8). -/
abbrev DWord := BitVec 32

/-- 20 bits: a physical address (R8, R60, R61). -/
abbrev PAddr := BitVec 20

end Sys2Proof
end

