-- ==== Sys2Proof/Config.lean ====
section
/-! DEFINITION. What an implementation fixes (the parameters of 00_scope.md rule R6) and the free values of the
spec (93_implementation_defined.md A.1, A.2): constants without a body, so that no proof can see them. -/

namespace Sys2Proof

/-- The strap MN/MX (60_exceptions.md R470, D18): which pins 24 to 31 and 34 are. -/
inductive BusMode where
  | min
  | max
  deriving DecidableEq, Repr

/-- What answers at a region of physical addresses (20_memory.md R79, D21). -/
inductive RegionKind where
  /-- Reads give the stored byte and writes store. -/
  | ram
  /-- Reads give the stored byte and a write changes nothing. -/
  | rom
  /-- A memory-mapped device: it answers reads, and a write is an event on the bus (R77, R457). -/
  | device
  /-- Nothing answers: a read is a free value and a write changes nothing. -/
  | absent
  deriving DecidableEq, Repr

/-- One region of the platform's memory map: `size` bytes from `base`. -/
structure MemRegion where
  base : Nat
  size : Nat
  kind : RegionKind
  deriving DecidableEq, Repr

/-- The parameters of 00_scope.md rule R6 that are fixed for a machine; a step never changes them (log 4). -/
structure Params where
  /-- MODE, default MIN (D18). -/
  mode : BusMode
  /-- FLAGS_X, what the seven X positions of FLAGS read as, default F002H (R41, D4). -/
  flagsX : Word
  /-- IDIV_MIN_FAULTS, default true (R245, D12). -/
  idivMinFaults : Bool
  /-- MEMORY_MAP: the first region that holds an address decides, an address in none is RAM (log 3, D21). -/
  memMap : List MemRegion
  /-- OTHER_MASTERS, default false (D7). -/
  otherMasters : Bool
  deriving DecidableEq, Repr

/-- The defaults of 92_eei_decisions.md. DESIGN CHOICE for the memory map, which the spec leaves to the user:
every address is RAM (log 3). -/
def Params.default : Params :=
  { mode := .min, flagsX := 0xF002#16, idivMinFaults := true, memMap := [], otherMasters := false }

/-- A free bit: an undefined flag (10_state.md R40, D6) or a TEST level nobody supplies (R409). The argument is
the number of the draw. -/
opaque Config.freeBit : Nat → Bool

/-- A free byte: absent memory (R79), a port or a device nobody answers for (R75, R457). -/
opaque Config.freeByte : Nat → Byte

/-- A free word: AX and DX after a divide error (R442), the general registers after RESET (R50), CS:IP after an
interrupt sequence whose pushes overlap its vector (D31). -/
opaque Config.freeWord : Nat → Word

/-- A free choice: how many bytes the queue prefetches at a moment when it may (R85, D8). -/
opaque Config.freeChoice : Nat → Nat

end Sys2Proof
end

