-- ==== Sys2Proof/Syntax.lean ====
section
/-! DEFINITION. The instructions of the 80C88: one constructor of `Instr` per row of spec/opcode_table.json, in
the table's order, and the operand forms of 30_encoding.md rules R110 to R118. Every bit an encoding leaves free is
an argument, so that an instruction and its bytes say the same (redundant encodings, R133, are different terms). -/

namespace Sys2Proof

/-- The field `w` (R110): a byte or a word instruction. -/
inductive Width where
  | byte
  | word
  deriving DecidableEq, Repr

/-- The operand width in bits (R200, R260). -/
@[reducible] def Width.bits : Width → Nat
  | .byte => 8
  | .word => 16

/-- The field `d` (R110): `reg` is the source and r/m the destination, or the other way round. -/
inductive Dir where
  | fromReg
  | toReg
  deriving DecidableEq, Repr

/-- A field of three bits: an opcode extension (R121) or a don't-care field of ESC (R135). -/
inductive Bits3 where
  | b000 | b001 | b010 | b011 | b100 | b101 | b110 | b111
  deriving DecidableEq, Repr

/-- A three-bit register number where the width decides which of two registers it names (R21, R22, R114):
`axAl` is 000, AX or AL, and so on to `diBh`, 111, DI or BH. -/
inductive RegNum where
  | axAl | cxCl | dxDl | bxBl | spAh | bpCh | siDh | diBh
  deriving DecidableEq, Repr

/-- The sixteen-bit registers, in the order of their numbers 000 to 111 (R21). -/
inductive Reg16 where
  | ax | cx | dx | bx | sp | bp | si | di
  deriving DecidableEq, Repr

/-- The eight-bit registers, in the order of their numbers 000 to 111 (R22). -/
inductive Reg8 where
  | al | cl | dl | bl | ah | ch | dh | bh
  deriving DecidableEq, Repr

/-- The segment registers, in the order of their numbers 00 to 11 (R25). -/
inductive SReg where
  | es | cs | ss | ds
  deriving DecidableEq, Repr

/-- The segment registers an instruction may load alone: CS is not one (R130, R131, R514). -/
inductive DataSReg where
  | es | ss | ds
  deriving DecidableEq, Repr

/-- The eight register sums an effective address starts from, in the order of r/m 000 to 111 (R112). -/
inductive EaBase where
  | bxSi | bxDi | bpSi | bpDi | si | di | bp | bx
  deriving DecidableEq, Repr

/-- The displacement as `mod` gives it (R111, R113): none, one byte to be sign-extended, two bytes. -/
inductive Disp where
  | none
  | d8 (b : Byte)
  | d16 (w : Word)
  deriving DecidableEq, Repr

/-- A memory operand, mod other than 11 (R112): a register sum with a displacement, or the direct address of
mod 00 with r/m 110. -/
inductive MemOp where
  | based (base : EaBase) (disp : Disp)
  | direct (addr : Word)
  deriving DecidableEq, Repr

/-- The operand `r/m` (R111): a register when mod is 11, a memory operand otherwise. -/
inductive RM where
  | reg (n : RegNum)
  | mem (m : MemOp)
  deriving DecidableEq, Repr

/-- An immediate whose size is `w` (R115, "data / data if w = 1"). -/
inductive Imm where
  | b (v : Byte)
  | w (v : Word)
  deriving DecidableEq, Repr

/-- An immediate of the group 100000sw (R115): by the opcode byte, 80H a byte, 81H a word, 82H a byte, 83H a byte
to be sign-extended to a word. -/
inductive ImmSW where
  | b80 (v : Byte)
  | w81 (v : Word)
  | b82 (v : Byte)
  | sx83 (v : Byte)
  deriving DecidableEq, Repr

/-- The field `v` (R110, R262): shift by one, or by CL. -/
inductive Count where
  | one
  | cl
  deriving DecidableEq, Repr

/-- The instructions: one constructor per row of spec/opcode_table.json. -/
inductive Instr where
  /-- MOV, Register/Memory to/from Register: `100010dw mmrrrnnn` (R151). -/
  | movRmReg (d : Dir) (w : Width) (rm : RM) (reg : RegNum)
  /-- MOV, Immediate to Register/Memory: `1100011w mm000nnn` (R152). -/
  | movRmImm (rm : RM) (imm : Imm)
  /-- MOV, Immediate to Register: `1011wrrr` (R153). -/
  | movRegImm (reg : RegNum) (imm : Imm)
  /-- MOV, Memory to Accumulator: `1010000w` (R154). -/
  | movAccMem (w : Width) (addr : Word)
  /-- MOV, Accumulator to Memory: `1010001w` (R155). -/
  | movMemAcc (w : Width) (addr : Word)
  /-- MOV, Register/Memory to Segment Register: `10001110 mm0rrnnn` (R156). -/
  | movSregRm (sr : DataSReg) (rm : RM)
  /-- MOV, Segment Register to Register/Memory: `10001100 mm0rrnnn` (R157). -/
  | movRmSreg (rm : RM) (sr : SReg)
  /-- PUSH, Register/Memory: `11111111 mm110nnn` (R158). -/
  | pushRm (rm : RM)
  /-- PUSH, Register: `01010rrr` (R159). -/
  | pushReg (r : Reg16)
  /-- PUSH, Segment Register: `000rr110` (R160). -/
  | pushSreg (sr : SReg)
  /-- POP, Register/Memory: `10001111 mm000nnn` (R161). -/
  | popRm (rm : RM)
  /-- POP, Register: `01011rrr` (R162). -/
  | popReg (r : Reg16)
  /-- POP, Segment Register: `000rr111` (R163). -/
  | popSreg (sr : DataSReg)
  /-- XCHG, Register/Memory with Register: `1000011w mmrrrnnn` (R164). -/
  | xchgRmReg (w : Width) (rm : RM) (reg : RegNum)
  /-- XCHG, Register with Accumulator: `10010rrr` (R165). -/
  | xchgAccReg (r : Reg16)
  /-- IN, Fixed Port: `1110010w` (R170). -/
  | inFixed (w : Width) (port : Byte)
  /-- IN, Variable Port: `1110110w` (R171). -/
  | inVar (w : Width)
  /-- OUT, Fixed Port: `1110011w` (R172). -/
  | outFixed (w : Width) (port : Byte)
  /-- OUT, Variable Port: `1110111w` (R173). -/
  | outVar (w : Width)
  /-- XLAT, Translate Byte to AL: `11010111` (R174). -/
  | xlat
  /-- LEA, Load EA to Register: `10001101 mmrrrnnn` (R175). -/
  | lea (r : Reg16) (m : MemOp)
  /-- LDS, Load Pointer to DS: `11000101 mmrrrnnn` (R176). -/
  | lds (r : Reg16) (m : MemOp)
  /-- LES, Load Pointer to ES: `11000100 mmrrrnnn` (R177). -/
  | les (r : Reg16) (m : MemOp)
  /-- LAHF, Load AH with Flags: `10011111` (R178). -/
  | lahf
  /-- SAHF, Store AH into Flags: `10011110` (R179). -/
  | sahf
  /-- PUSHF, Push Flags: `10011100` (R180). -/
  | pushf
  /-- POPF, Pop Flags: `10011101` (R181). -/
  | popf
  /-- ADD, Register/Memory with Register to Either: `000000dw mmrrrnnn` (R201). -/
  | addRmReg (d : Dir) (w : Width) (rm : RM) (reg : RegNum)
  /-- ADD, Immediate to Register/Memory: `100000sw mm000nnn` (R202). -/
  | addRmImm (rm : RM) (imm : ImmSW)
  /-- ADD, Immediate to Accumulator: `0000010w` (R203). -/
  | addAccImm (imm : Imm)
  /-- ADC, Register/Memory with Register to Either: `000100dw mmrrrnnn` (R204). -/
  | adcRmReg (d : Dir) (w : Width) (rm : RM) (reg : RegNum)
  /-- ADC, Immediate to Register/Memory: `100000sw mm010nnn` (R205). -/
  | adcRmImm (rm : RM) (imm : ImmSW)
  /-- ADC, Immediate to Accumulator: `0001010w` (R206). -/
  | adcAccImm (imm : Imm)
  /-- INC, Register/Memory: `1111111w mm000nnn` (R207). -/
  | incRm (w : Width) (rm : RM)
  /-- INC, Register: `01000rrr` (R208). -/
  | incReg (r : Reg16)
  /-- AAA, ASCII Adjust for Add: `00110111` (R209). -/
  | aaa
  /-- DAA, Decimal Adjust for Add: `00100111` (R210). -/
  | daa
  /-- SUB, Register/Memory and Register to Either: `001010dw mmrrrnnn` (R211). -/
  | subRmReg (d : Dir) (w : Width) (rm : RM) (reg : RegNum)
  /-- SUB, Immediate from Register/Memory: `100000sw mm101nnn` (R212). -/
  | subRmImm (rm : RM) (imm : ImmSW)
  /-- SUB, Immediate from Accumulator: `0010110w` (R213). -/
  | subAccImm (imm : Imm)
  /-- SBB, Register/Memory and Register to Either: `000110dw mmrrrnnn` (R214). -/
  | sbbRmReg (d : Dir) (w : Width) (rm : RM) (reg : RegNum)
  /-- SBB, Immediate from Register/Memory: `100000sw mm011nnn` (R215). -/
  | sbbRmImm (rm : RM) (imm : ImmSW)
  /-- SBB, Immediate from Accumulator: `0001110w` (R216). -/
  | sbbAccImm (imm : Imm)
  /-- DEC, Register/Memory: `1111111w mm001nnn` (R217). -/
  | decRm (w : Width) (rm : RM)
  /-- DEC, Register: `01001rrr` (R218). -/
  | decReg (r : Reg16)
  /-- NEG, Change Sign: `1111011w mm011nnn` (R219). -/
  | negRm (w : Width) (rm : RM)
  /-- CMP, Register/Memory and Register: `001110dw mmrrrnnn` (R220). -/
  | cmpRmReg (d : Dir) (w : Width) (rm : RM) (reg : RegNum)
  /-- CMP, Immediate with Register/Memory: `100000sw mm111nnn` (R221). -/
  | cmpRmImm (rm : RM) (imm : ImmSW)
  /-- CMP, Immediate with Accumulator: `0011110w` (R222). -/
  | cmpAccImm (imm : Imm)
  /-- AAS, ASCII Adjust for Subtract: `00111111` (R223). -/
  | aas
  /-- DAS, Decimal Adjust for Subtract: `00101111` (R224). -/
  | das
  /-- MUL, Multiply (Unsigned): `1111011w mm100nnn` (R241). -/
  | mulRm (w : Width) (rm : RM)
  /-- IMUL, Integer Multiply (Signed): `1111011w mm101nnn` (R242). -/
  | imulRm (w : Width) (rm : RM)
  /-- AAM, ASCII Adjust for Multiply: `11010100 00001010` (R243). -/
  | aam
  /-- DIV, Divide (Unsigned): `1111011w mm110nnn` (R244). -/
  | divRm (w : Width) (rm : RM)
  /-- IDIV, Integer Divide (Signed): `1111011w mm111nnn` (R245). -/
  | idivRm (w : Width) (rm : RM)
  /-- AAD, ASCII Adjust for Divide: `11010101 00001010` (R246). -/
  | aad
  /-- CBW, Convert Byte to Word: `10011000` (R247). -/
  | cbw
  /-- CWD, Convert Word to Double Word: `10011001` (R248). -/
  | cwd
  /-- NOT, Invert: `1111011w mm010nnn` (R261). -/
  | notRm (w : Width) (rm : RM)
  /-- SHL_SAL, Shift Logical/Arithmetic Left: `110100vw mm100nnn` (R263). -/
  | shl (v : Count) (w : Width) (rm : RM)
  /-- SHR, Shift Logical Right: `110100vw mm101nnn` (R264). -/
  | shr (v : Count) (w : Width) (rm : RM)
  /-- SAR, Shift Arithmetic Right: `110100vw mm111nnn` (R265). -/
  | sar (v : Count) (w : Width) (rm : RM)
  /-- ROL, Rotate Left: `110100vw mm000nnn` (R266). -/
  | rol (v : Count) (w : Width) (rm : RM)
  /-- ROR, Rotate Right: `110100vw mm001nnn` (R267). -/
  | ror (v : Count) (w : Width) (rm : RM)
  /-- RCL, Rotate Through Carry Flag Left: `110100vw mm010nnn` (R268). -/
  | rcl (v : Count) (w : Width) (rm : RM)
  /-- RCR, Rotate Through Carry Right: `110100vw mm011nnn` (R269). -/
  | rcr (v : Count) (w : Width) (rm : RM)
  /-- AND, Reg./Memory and Register to Either: `001000dw mmrrrnnn` (R270). -/
  | andRmReg (d : Dir) (w : Width) (rm : RM) (reg : RegNum)
  /-- AND, Immediate to Register/Memory: `1000000w mm100nnn` (R271). -/
  | andRmImm (rm : RM) (imm : Imm)
  /-- AND, Immediate to Accumulator: `0010010w` (R272). -/
  | andAccImm (imm : Imm)
  /-- TEST, Register/Memory and Register: `1000010w mmrrrnnn` (R273). -/
  | testRmReg (w : Width) (rm : RM) (reg : RegNum)
  /-- TEST, Immediate Data and Register/Memory: `1111011w mm000nnn` (R274). -/
  | testRmImm (rm : RM) (imm : Imm)
  /-- TEST, Immediate Data and Accumulator: `1010100w` (R275). -/
  | testAccImm (imm : Imm)
  /-- OR, Register/Memory and Register to Either: `000010dw mmrrrnnn` (R276). -/
  | orRmReg (d : Dir) (w : Width) (rm : RM) (reg : RegNum)
  /-- OR, Immediate to Register/Memory: `1000000w mm001nnn` (R277). -/
  | orRmImm (rm : RM) (imm : Imm)
  /-- OR, Immediate to Accumulator: `0000110w` (R278). -/
  | orAccImm (imm : Imm)
  /-- XOR, Register/Memory and Register to Either: `001100dw mmrrrnnn` (R279). -/
  | xorRmReg (d : Dir) (w : Width) (rm : RM) (reg : RegNum)
  /-- XOR, Immediate to Register/Memory: `1000000w mm110nnn` (R280). -/
  | xorRmImm (rm : RM) (imm : Imm)
  /-- XOR, Immediate to Accumulator: `0011010w` (R281). -/
  | xorAccImm (imm : Imm)
  /-- REP, Repeat (prefix): `1111001z` (R301). -/
  | rep (z : Bool)
  /-- MOVS, Move Byte/Word: `1010010w` (R303). -/
  | movs (w : Width)
  /-- CMPS, Compare Byte/Word: `1010011w` (R304). -/
  | cmps (w : Width)
  /-- SCAS, Scan Byte/Word: `1010111w` (R305). -/
  | scas (w : Width)
  /-- LODS, Load Byte/Word to AL/AX: `1010110w` (R306). -/
  | lods (w : Width)
  /-- STOS, Store Byte/Word from AL/AX: `1010101w` (R307). -/
  | stos (w : Width)
  /-- CALL, Direct Within Segment: `11101000` (R331). -/
  | callNear (disp : Word)
  /-- CALL, Indirect Within Segment: `11111111 mm010nnn` (R332). -/
  | callRm (rm : RM)
  /-- CALL, Direct Intersegment: `10011010` (R333). -/
  | callFar (off : Word) (seg : Word)
  /-- CALL, Indirect Intersegment: `11111111 mm011nnn` (R334). -/
  | callMemFar (m : MemOp)
  /-- JMP, Direct Within Segment: `11101001` (R335). -/
  | jmpNear (disp : Word)
  /-- JMP, Direct Within Segment-Short: `11101011` (R336). -/
  | jmpShort (disp : Byte)
  /-- JMP, Indirect Within Segment: `11111111 mm100nnn` (R337). -/
  | jmpRm (rm : RM)
  /-- JMP, Direct Intersegment: `11101010` (R338). -/
  | jmpFar (off : Word) (seg : Word)
  /-- JMP, Indirect Intersegment: `11111111 mm101nnn` (R339). -/
  | jmpMemFar (m : MemOp)
  /-- RET, Within Segment: `11000011` (R340). -/
  | ret
  /-- RET, Within Seg Adding Immed to SP: `11000010` (R341). -/
  | retImm (n : Word)
  /-- RETF, Intersegment (the source's mnemonic is RET): `11001011` (R342). -/
  | retf
  /-- RETF, Intersegment Adding Immediate to SP (the source's mnemonic is RET): `11001010` (R343). -/
  | retfImm (n : Word)
  /-- JO, Jump on Overflow: `01110000` (R351). -/
  | jo (disp : Byte)
  /-- JNO, Jump on Not Overflow: `01110001` (R352). -/
  | jno (disp : Byte)
  /-- JB_JNAE, Jump on Below/Not Above or Equal: `01110010` (R353). -/
  | jb (disp : Byte)
  /-- JNB_JAE, Jump on Not Below/Above or Equal: `01110011` (R354). -/
  | jnb (disp : Byte)
  /-- JE_JZ, Jump on Equal/Zero: `01110100` (R355). -/
  | je (disp : Byte)
  /-- JNE_JNZ, Jump on Not Equal/Not Zero: `01110101` (R356). -/
  | jne (disp : Byte)
  /-- JBE_JNA, Jump on Below or Equal/Not Above: `01110110` (R357). -/
  | jbe (disp : Byte)
  /-- JNBE_JA, Jump on Not Below or Equal/Above: `01110111` (R358). -/
  | jnbe (disp : Byte)
  /-- JS, Jump on Sign: `01111000` (R359). -/
  | js (disp : Byte)
  /-- JNS, Jump on Not Sign: `01111001` (R360). -/
  | jns (disp : Byte)
  /-- JP_JPE, Jump on Parity/Parity Even: `01111010` (R361). -/
  | jp (disp : Byte)
  /-- JNP_JPO, Jump on Not Par/Par Odd: `01111011` (R362). -/
  | jnp (disp : Byte)
  /-- JL_JNGE, Jump on Less/Not Greater or Equal: `01111100` (R363). -/
  | jl (disp : Byte)
  /-- JNL_JGE, Jump on Not Less/Greater or Equal: `01111101` (R364). -/
  | jnl (disp : Byte)
  /-- JLE_JNG, Jump on Less or Equal/Not Greater: `01111110` (R365). -/
  | jle (disp : Byte)
  /-- JNLE_JG, Jump on Not Less or Equal/Greater: `01111111` (R366). -/
  | jnle (disp : Byte)
  /-- LOOP, Loop CX Times: `11100010` (R380). -/
  | loop (disp : Byte)
  /-- LOOPZ_LOOPE, Loop While Zero/Equal: `11100001` (R381). -/
  | loopz (disp : Byte)
  /-- LOOPNZ_LOOPNE, Loop While Not Zero/Equal: `11100000` (R382). -/
  | loopnz (disp : Byte)
  /-- JCXZ, Jump on CX Zero: `11100011` (R383). -/
  | jcxz (disp : Byte)
  /-- INT, Type Specified: `11001101` (R390). -/
  | intN (t : Byte)
  /-- INT_3, Type 3: `11001100` (R391). -/
  | int3
  /-- INTO, Interrupt on Overflow: `11001110` (R392). -/
  | into
  /-- IRET, Interrupt Return: `11001111` (R393). -/
  | iret
  /-- CLC, Clear Carry: `11111000` (R400). -/
  | clc
  /-- CMC, Complement Carry: `11110101` (R401). -/
  | cmc
  /-- STC, Set Carry: `11111001` (R402). -/
  | stc
  /-- CLD, Clear Direction: `11111100` (R403). -/
  | cld
  /-- STD, Set Direction: `11111101` (R404). -/
  | std
  /-- CLI, Clear Interrupt: `11111010` (R405). -/
  | cli
  /-- STI, Set Interrupt (printed "ST", 90_conflicts.md C5): `11111011` (R406). -/
  | sti
  /-- HLT, Halt: `11110100` (R408). -/
  | hlt
  /-- WAIT, Wait: `10011011` (R409). -/
  | wait
  /-- ESC, Escape (to External Device): `11011xxx mmxxxnnn` (R410). -/
  | esc (x1 : Bits3) (x2 : Bits3) (rm : RM)
  /-- LOCK, Bus Lock Prefix (prefix): `11110000` (R411). -/
  | lock
  /-- SEGMENT, SEGMENT OVERRIDE PREFIX (prefix): 26H ES, 2EH CS, 36H SS, 3EH DS: `001rr110` (R412). -/
  | segment (sr : SReg)
  deriving DecidableEq, Repr

end Sys2Proof
end

