-- ==== Sys2Proof/WellFormed.lean ====
section
/-! DEFINITION. Which terms of `Instr` are instructions. The types leave one shape too many: mod 00 with r/m 110
is the direct address, so "(BP) without a displacement" has no encoding (30_encoding.md R112). Everything else an
encoding forbids (CS as the destination of MOV and POP, the register form of LEA, LDS, LES and the indirect
intersegment transfers, an unlisted extension) has no term at all. -/

namespace Sys2Proof

/-- A memory operand is well-formed unless it is (BP) with no displacement (R112, last but one row). -/
def MemOp.wf : MemOp → Bool
  | .based .bp .none => false
  | .based _ _ => true
  | .direct _ => true

/-- A register operand is always well-formed, a memory operand when `MemOp.wf` says so. -/
def RM.wf : RM → Bool
  | .reg _ => true
  | .mem m => m.wf

/-- The operand given by mod and r/m, for the instructions that have one. -/
def Instr.operand : Instr → Option RM
  | .movRmReg _ _ rm _ => some rm
  | .movRmImm rm _ => some rm
  | .movRegImm _ _ => none
  | .movAccMem _ _ => none
  | .movMemAcc _ _ => none
  | .movSregRm _ rm => some rm
  | .movRmSreg rm _ => some rm
  | .pushRm rm => some rm
  | .pushReg _ => none
  | .pushSreg _ => none
  | .popRm rm => some rm
  | .popReg _ => none
  | .popSreg _ => none
  | .xchgRmReg _ rm _ => some rm
  | .xchgAccReg _ => none
  | .inFixed _ _ => none
  | .inVar _ => none
  | .outFixed _ _ => none
  | .outVar _ => none
  | .xlat => none
  | .lea _ m => some (.mem m)
  | .lds _ m => some (.mem m)
  | .les _ m => some (.mem m)
  | .lahf => none
  | .sahf => none
  | .pushf => none
  | .popf => none
  | .addRmReg _ _ rm _ => some rm
  | .addRmImm rm _ => some rm
  | .addAccImm _ => none
  | .adcRmReg _ _ rm _ => some rm
  | .adcRmImm rm _ => some rm
  | .adcAccImm _ => none
  | .incRm _ rm => some rm
  | .incReg _ => none
  | .aaa => none
  | .daa => none
  | .subRmReg _ _ rm _ => some rm
  | .subRmImm rm _ => some rm
  | .subAccImm _ => none
  | .sbbRmReg _ _ rm _ => some rm
  | .sbbRmImm rm _ => some rm
  | .sbbAccImm _ => none
  | .decRm _ rm => some rm
  | .decReg _ => none
  | .negRm _ rm => some rm
  | .cmpRmReg _ _ rm _ => some rm
  | .cmpRmImm rm _ => some rm
  | .cmpAccImm _ => none
  | .aas => none
  | .das => none
  | .mulRm _ rm => some rm
  | .imulRm _ rm => some rm
  | .aam => none
  | .divRm _ rm => some rm
  | .idivRm _ rm => some rm
  | .aad => none
  | .cbw => none
  | .cwd => none
  | .notRm _ rm => some rm
  | .shl _ _ rm => some rm
  | .shr _ _ rm => some rm
  | .sar _ _ rm => some rm
  | .rol _ _ rm => some rm
  | .ror _ _ rm => some rm
  | .rcl _ _ rm => some rm
  | .rcr _ _ rm => some rm
  | .andRmReg _ _ rm _ => some rm
  | .andRmImm rm _ => some rm
  | .andAccImm _ => none
  | .testRmReg _ rm _ => some rm
  | .testRmImm rm _ => some rm
  | .testAccImm _ => none
  | .orRmReg _ _ rm _ => some rm
  | .orRmImm rm _ => some rm
  | .orAccImm _ => none
  | .xorRmReg _ _ rm _ => some rm
  | .xorRmImm rm _ => some rm
  | .xorAccImm _ => none
  | .rep _ => none
  | .movs _ => none
  | .cmps _ => none
  | .scas _ => none
  | .lods _ => none
  | .stos _ => none
  | .callNear _ => none
  | .callRm rm => some rm
  | .callFar _ _ => none
  | .callMemFar m => some (.mem m)
  | .jmpNear _ => none
  | .jmpShort _ => none
  | .jmpRm rm => some rm
  | .jmpFar _ _ => none
  | .jmpMemFar m => some (.mem m)
  | .ret => none
  | .retImm _ => none
  | .retf => none
  | .retfImm _ => none
  | .jo _ => none
  | .jno _ => none
  | .jb _ => none
  | .jnb _ => none
  | .je _ => none
  | .jne _ => none
  | .jbe _ => none
  | .jnbe _ => none
  | .js _ => none
  | .jns _ => none
  | .jp _ => none
  | .jnp _ => none
  | .jl _ => none
  | .jnl _ => none
  | .jle _ => none
  | .jnle _ => none
  | .loop _ => none
  | .loopz _ => none
  | .loopnz _ => none
  | .jcxz _ => none
  | .intN _ => none
  | .int3 => none
  | .into => none
  | .iret => none
  | .clc => none
  | .cmc => none
  | .stc => none
  | .cld => none
  | .std => none
  | .cli => none
  | .sti => none
  | .hlt => none
  | .wait => none
  | .esc _ _ rm => some rm
  | .lock => none
  | .segment _ => none

/-- An instruction is well-formed when its operand is. -/
def Instr.wf (i : Instr) : Bool :=
  match i.operand with
  | some rm => rm.wf
  | none => true

end Sys2Proof
end

