-- ==== Sys2Proof/Decode.lean ====
section
/-! DEFINITION. The decoder, total on any bytes (30_encoding.md R100 to R121), the encodings it refuses by name
(R130 to R132), the encoder, and the byte-order and sign-extension helpers both halves of the model use. -/

namespace Sys2Proof

/-! ## Byte order and sign extension -/

/-- Bits 7:0 of a word: the byte at the lower address (R65). -/
def lowByte (w : Word) : Byte := w.extractLsb' 0 8

/-- Bits 15:8 of a word: the byte at the higher address (R65). -/
def highByte (w : Word) : Byte := w.extractLsb' 8 8

/-- `hi:lo` (R7, R65). -/
def wordOf (lo hi : Byte) : Word := hi ++ lo

/-- `sext_16` (R8). -/
def sext16 (b : Byte) : Word := b.signExtend 16

/-- `zext_16` (R8). -/
def zext16 (b : Byte) : Word := b.setWidth 16

/-! ## Bits and fields -/

/-- One bit of an encoding, written as the spec's bit patterns are (R7). -/
inductive Bit where
  | O
  | I
  deriving DecidableEq, Repr

open Bit

/-- Bit `n` of a byte. -/
def bitOf (b : Byte) (n : Nat) : Bit := if b.getLsbD n then I else O

def Bit.toBool : Bit → Bool
  | O => false
  | I => true

/-- The byte drawn "7 6 5 4 3 2 1 0", most significant bit on the left (R7). -/
def byteOf (b7 b6 b5 b4 b3 b2 b1 b0 : Bit) : Byte :=
  BitVec.ofBool b7.toBool ++ BitVec.ofBool b6.toBool ++ BitVec.ofBool b5.toBool ++ BitVec.ofBool b4.toBool
    ++ BitVec.ofBool b3.toBool ++ BitVec.ofBool b2.toBool ++ BitVec.ofBool b1.toBool ++ BitVec.ofBool b0.toBool

/-- w = 0 byte, w = 1 word (R110). -/
def widthOf : Bit → Width
  | O => .byte
  | I => .word

def bitOfWidth : Width → Bit
  | .byte => O
  | .word => I

/-- d = 0 from reg, d = 1 to reg (R110). -/
def dirOf : Bit → Dir
  | O => .fromReg
  | I => .toReg

def bitOfDir : Dir → Bit
  | .fromReg => O
  | .toReg => I

/-- v = 0 count 1, v = 1 count in CL (R110). -/
def countOf : Bit → Count
  | O => .one
  | I => .cl

def bitOfCount : Count → Bit
  | .one => O
  | .cl => I

/-- z (R110, R301). -/
def bitOfBool : Bool → Bit
  | false => O
  | true => I

/-- Three bits, most significant first. -/
def bits3Of : Bit → Bit → Bit → Bits3
  | O, O, O => .b000
  | O, O, I => .b001
  | O, I, O => .b010
  | O, I, I => .b011
  | I, O, O => .b100
  | I, O, I => .b101
  | I, I, O => .b110
  | I, I, I => .b111

def Bits3.toBits : Bits3 → Bit × Bit × Bit
  | .b000 => (O, O, O)
  | .b001 => (O, O, I)
  | .b010 => (O, I, O)
  | .b011 => (O, I, I)
  | .b100 => (I, O, O)
  | .b101 => (I, O, I)
  | .b110 => (I, I, O)
  | .b111 => (I, I, I)

/-- The register numbers of R21 and R22. -/
def RegNum.ofBits : Bits3 → RegNum
  | .b000 => .axAl
  | .b001 => .cxCl
  | .b010 => .dxDl
  | .b011 => .bxBl
  | .b100 => .spAh
  | .b101 => .bpCh
  | .b110 => .siDh
  | .b111 => .diBh

def RegNum.toBits3 : RegNum → Bits3
  | .axAl => .b000
  | .cxCl => .b001
  | .dxDl => .b010
  | .bxBl => .b011
  | .spAh => .b100
  | .bpCh => .b101
  | .siDh => .b110
  | .diBh => .b111

/-- The word register of a number, w = 1 (R21). -/
def RegNum.reg16 : RegNum → Reg16
  | .axAl => .ax
  | .cxCl => .cx
  | .dxDl => .dx
  | .bxBl => .bx
  | .spAh => .sp
  | .bpCh => .bp
  | .siDh => .si
  | .diBh => .di

/-- The byte register of a number, w = 0 (R22). -/
def RegNum.reg8 : RegNum → Reg8
  | .axAl => .al
  | .cxCl => .cl
  | .dxDl => .dl
  | .bxBl => .bl
  | .spAh => .ah
  | .bpCh => .ch
  | .siDh => .dh
  | .diBh => .bh

def Reg16.toBits3 : Reg16 → Bits3
  | .ax => .b000
  | .cx => .b001
  | .dx => .b010
  | .bx => .b011
  | .sp => .b100
  | .bp => .b101
  | .si => .b110
  | .di => .b111

/-- The r/m numbers of R112 with mod other than 11. -/
def EaBase.ofBits : Bits3 → EaBase
  | .b000 => .bxSi
  | .b001 => .bxDi
  | .b010 => .bpSi
  | .b011 => .bpDi
  | .b100 => .si
  | .b101 => .di
  | .b110 => .bp
  | .b111 => .bx

def EaBase.toBits3 : EaBase → Bits3
  | .bxSi => .b000
  | .bxDi => .b001
  | .bpSi => .b010
  | .bpDi => .b011
  | .si => .b100
  | .di => .b101
  | .bp => .b110
  | .bx => .b111

/-- The segment register numbers of R25. -/
def sregOf : Bit → Bit → SReg
  | O, O => .es
  | O, I => .cs
  | I, O => .ss
  | I, I => .ds

def SReg.toBits : SReg → Bit × Bit
  | .es => (O, O)
  | .cs => (O, I)
  | .ss => (I, O)
  | .ds => (I, I)

def DataSReg.toSReg : DataSReg → SReg
  | .es => .es
  | .ss => .ss
  | .ds => .ds

/-! ## The decoder -/

/-- Why the decoder gives bytes no instruction: the encodings the Instruction Set Summary does not list (R130 to
R132), each with the bytes that show it, and bytes that end too soon. Safe: the spec says `refuse` (D5, D20, D25). -/
inductive DecodeError where
  /-- The bytes end before the instruction does. A fetch of six bytes never does this (R100). -/
  | truncated
  /-- 60H to 6FH, C0H, C1H, C8H, C9H, D6H, F1H (R130). -/
  | unlistedOpcode (op : Byte)
  /-- 0FH (R131, D20). -/
  | popCs
  /-- An extension the group does not list (R121, R130). -/
  | unlistedExtension (op second : Byte)
  /-- 8CH or 8EH with bit 5 of the second byte set (R121, R130). -/
  | segmentFieldBit5 (op second : Byte)
  /-- 8EH with reg = 01: "not allowed" (R130, R156, D20). -/
  | movCs (second : Byte)
  /-- mod = 11 where a memory operand is needed: LEA, LDS, LES, CALL and JMP indirect intersegment (R132). -/
  | registerForm (op second : Byte)
  /-- D4H or D5H with a second byte other than 0AH (R130, D25). -/
  | adjustBase (op second : Byte)
  deriving DecidableEq, Repr

/-- What a decoding step gives: a value and the bytes after it, or the name of the refusal. -/
abbrev Parse (α : Type) := Except DecodeError (α × List Byte)

/-- One step after another: the second reads the bytes the first leaves. -/
def parseThen {α β : Type} (p : Parse α) (f : α → List Byte → Parse β) : Parse β :=
  match p with
  | .ok (a, bs) => f a bs
  | .error e => .error e

/-- The same step with a function of its value. -/
def parseMap {α β : Type} (f : α → β) (p : Parse α) : Parse β :=
  match p with
  | .ok (a, bs) => .ok (f a, bs)
  | .error e => .error e

/-- The next byte of the instruction. -/
def takeByte : List Byte → Parse Byte
  | [] => .error .truncated
  | b :: bs => .ok (b, bs)

/-- The next two bytes, low byte first (R65, R100). -/
def takeWord : List Byte → Parse Word
  | lo :: hi :: bs => .ok (wordOf lo hi, bs)
  | _ => .error .truncated

/-- "data / data if w = 1" (R115). -/
def takeImm (w : Width) (bs : List Byte) : Parse Imm :=
  match w with
  | .byte => parseMap .b (takeByte bs)
  | .word => parseMap .w (takeWord bs)

/-- The immediate of 100000sw by `s` and `w` (R115). -/
def takeImmSW (sBit wBit : Bit) (bs : List Byte) : Parse ImmSW :=
  match sBit, wBit with
  | O, O => parseMap .b80 (takeByte bs)
  | O, I => parseMap .w81 (takeWord bs)
  | I, O => parseMap .b82 (takeByte bs)
  | I, I => parseMap .sx83 (takeByte bs)

/-- The field in bits 5:3 of the second byte: a register number or an extension (R111, R121). -/
def regField (b : Byte) : Bits3 := bits3Of (bitOf b 5) (bitOf b 4) (bitOf b 3)

/-- The field r/m, bits 2:0 of the second byte (R111). -/
def rmField (b : Byte) : Bits3 := bits3Of (bitOf b 2) (bitOf b 1) (bitOf b 0)

/-- The operand that mod and r/m name, with its displacement bytes (R111 to R113). -/
def takeRM (second : Byte) (bs : List Byte) : Parse RM :=
  match bitOf second 7, bitOf second 6, rmField second with
  | I, I, n => .ok (.reg (RegNum.ofBits n), bs)
  | O, O, .b110 => parseMap (fun a => .mem (.direct a)) (takeWord bs)
  | O, O, n => .ok (.mem (.based (EaBase.ofBits n) .none), bs)
  | O, I, n => parseMap (fun b => .mem (.based (EaBase.ofBits n) (.d8 b))) (takeByte bs)
  | I, O, n => parseMap (fun v => .mem (.based (EaBase.ofBits n) (.d16 v))) (takeWord bs)

/-- A one-byte instruction. -/
def plain (i : Instr) (bs : List Byte) : Parse Instr := .ok (i, bs)

/-- Format F-M (R102): mod reg r/m, then DISP. -/
def withRegRM (mk : RM → RegNum → Instr) (bs : List Byte) : Parse Instr :=
  parseThen (takeByte bs) fun second bs =>
  parseThen (takeRM second bs) fun rm bs =>
  .ok (mk rm (RegNum.ofBits (regField second)), bs)

/-- Format F-M where only a memory operand has a meaning (R132). -/
def withRegMem (op : Byte) (mk : Reg16 → MemOp → Instr) (bs : List Byte) : Parse Instr :=
  parseThen (takeByte bs) fun second bs =>
  parseThen (takeRM second bs) fun rm bs =>
  match rm with
  | .mem m => .ok (mk (RegNum.ofBits (regField second)).reg16 m, bs)
  | .reg _ => .error (.registerForm op second)

/-- One byte of data: a port, an interrupt type or a short displacement. -/
def withByte (mk : Byte → Instr) (bs : List Byte) : Parse Instr :=
  parseMap mk (takeByte bs)

/-- Two bytes of data: an address, a displacement or a count of bytes. -/
def withWord (mk : Word → Instr) (bs : List Byte) : Parse Instr :=
  parseMap mk (takeWord bs)

/-- Format F-FAR (R102): the offset word, then the segment word. -/
def withFar (mk : Word → Word → Instr) (bs : List Byte) : Parse Instr :=
  parseThen (takeWord bs) fun off bs =>
  parseThen (takeWord bs) fun seg bs =>
  .ok (mk off seg, bs)

/-- Immediate data of the size `w`. -/
def withImm (w : Width) (mk : Imm → Instr) (bs : List Byte) : Parse Instr :=
  parseMap mk (takeImm w bs)

/-- An instruction whose one operand is the r/m of the second byte. -/
def withOperand (second : Byte) (mk : RM → Instr) (bs : List Byte) : Parse Instr :=
  parseMap mk (takeRM second bs)

/-- An instruction whose one operand is a far pointer in memory (R132). -/
def withPointer (op second : Byte) (mk : MemOp → Instr) (bs : List Byte) : Parse Instr :=
  parseThen (takeRM second bs) fun rm bs =>
  match rm with
  | .mem m => .ok (mk m, bs)
  | .reg _ => .error (.registerForm op second)

/-- The arithmetic members of 80H to 83H: r/m, then the immediate of `s` and `w` (R115). -/
def grp1Arith (sBit wBit : Bit) (second : Byte) (mk : RM → ImmSW → Instr) (bs : List Byte) : Parse Instr :=
  parseThen (takeRM second bs) fun rm bs =>
  parseThen (takeImmSW sBit wBit bs) fun imm bs =>
  .ok (mk rm imm, bs)

/-- AND, OR and XOR, listed under 80H and 81H only (R115, R121). -/
def grp1Logic (op : Byte) (sBit wBit : Bit) (second : Byte) (mk : RM → Imm → Instr) (bs : List Byte) : Parse Instr :=
  match sBit with
  | I => .error (.unlistedExtension op second)
  | O =>
    parseThen (takeRM second bs) fun rm bs =>
    parseThen (takeImm (widthOf wBit) bs) fun imm bs =>
    .ok (mk rm imm, bs)

/-- 80H to 83H (R115, R121): the operation is the extension; with s = 1 only the arithmetic ones are listed. -/
def decodeGrp1 (op : Byte) (sBit wBit : Bit) (bs : List Byte) : Parse Instr :=
  parseThen (takeByte bs) fun second bs =>
  match regField second with
  | .b000 => grp1Arith sBit wBit second .addRmImm bs
  | .b001 => grp1Logic op sBit wBit second .orRmImm bs
  | .b010 => grp1Arith sBit wBit second .adcRmImm bs
  | .b011 => grp1Arith sBit wBit second .sbbRmImm bs
  | .b100 => grp1Logic op sBit wBit second .andRmImm bs
  | .b101 => grp1Arith sBit wBit second .subRmImm bs
  | .b110 => grp1Logic op sBit wBit second .xorRmImm bs
  | .b111 => grp1Arith sBit wBit second .cmpRmImm bs

/-- D0H to D3H (R121, R262). -/
def decodeGrp2 (op : Byte) (v : Count) (w : Width) (bs : List Byte) : Parse Instr :=
  parseThen (takeByte bs) fun second bs =>
  match regField second with
  | .b000 => withOperand second (.rol v w) bs
  | .b001 => withOperand second (.ror v w) bs
  | .b010 => withOperand second (.rcl v w) bs
  | .b011 => withOperand second (.rcr v w) bs
  | .b100 => withOperand second (.shl v w) bs
  | .b101 => withOperand second (.shr v w) bs
  | .b110 => .error (.unlistedExtension op second)
  | .b111 => withOperand second (.sar v w) bs

/-- F6H and F7H (R121): only the extension 000, TEST, has an immediate (R116). -/
def decodeGrp3 (op : Byte) (w : Width) (bs : List Byte) : Parse Instr :=
  parseThen (takeByte bs) fun second bs =>
  match regField second with
  | .b000 =>
    parseThen (takeRM second bs) fun rm bs =>
    parseThen (takeImm w bs) fun imm bs =>
    .ok (.testRmImm rm imm, bs)
  | .b001 => .error (.unlistedExtension op second)
  | .b010 => withOperand second (.notRm w) bs
  | .b011 => withOperand second (.negRm w) bs
  | .b100 => withOperand second (.mulRm w) bs
  | .b101 => withOperand second (.imulRm w) bs
  | .b110 => withOperand second (.divRm w) bs
  | .b111 => withOperand second (.idivRm w) bs

/-- FEH (R121). -/
def decodeGrp4 (op : Byte) (bs : List Byte) : Parse Instr :=
  parseThen (takeByte bs) fun second bs =>
  match regField second with
  | .b000 => withOperand second (.incRm .byte) bs
  | .b001 => withOperand second (.decRm .byte) bs
  | _ => .error (.unlistedExtension op second)

/-- FFH (R121): the far transfers need a memory operand (R132). -/
def decodeGrp5 (op : Byte) (bs : List Byte) : Parse Instr :=
  parseThen (takeByte bs) fun second bs =>
  match regField second with
  | .b000 => withOperand second (.incRm .word) bs
  | .b001 => withOperand second (.decRm .word) bs
  | .b010 => withOperand second .callRm bs
  | .b011 => withPointer op second .callMemFar bs
  | .b100 => withOperand second .jmpRm bs
  | .b101 => withPointer op second .jmpMemFar bs
  | .b110 => withOperand second .pushRm bs
  | .b111 => .error (.unlistedExtension op second)

/-- 8FH, C6H and C7H (R121): only the extension 000 is listed. -/
def decodeExt0 (op : Byte) (rest : Byte → List Byte → Parse Instr) (bs : List Byte) : Parse Instr :=
  parseThen (takeByte bs) fun second bs =>
  match regField second with
  | .b000 => rest second bs
  | _ => .error (.unlistedExtension op second)

/-- 8FH: POP r/m (R161). -/
def decodePopRm (op : Byte) : List Byte → Parse Instr :=
  decodeExt0 op fun second bs => parseMap .popRm (takeRM second bs)

/-- C6H and C7H: MOV r/m, immediate; the displacement comes before the data (R152). -/
def decodeMovRmImm (op : Byte) (w : Width) : List Byte → Parse Instr :=
  decodeExt0 op fun second bs =>
    parseThen (takeRM second bs) fun rm bs =>
    parseThen (takeImm w bs) fun imm bs =>
    .ok (.movRmImm rm imm, bs)

/-- 8CH: MOV r/m, sreg with the two-bit reg in bits 4:3 and bit 5 zero (R157). -/
def decodeMovRmSreg (op : Byte) (bs : List Byte) : Parse Instr :=
  parseThen (takeByte bs) fun second bs =>
  match bitOf second 5 with
  | I => .error (.segmentFieldBit5 op second)
  | O => parseMap (fun rm => .movRmSreg rm (sregOf (bitOf second 4) (bitOf second 3))) (takeRM second bs)

/-- 8EH: MOV sreg, r/m; "MOV CS, REG/MEMORY not allowed" (R156). -/
def decodeMovSregRm (op : Byte) (bs : List Byte) : Parse Instr :=
  parseThen (takeByte bs) fun second bs =>
  match bitOf second 5, sregOf (bitOf second 4) (bitOf second 3) with
  | I, _ => .error (.segmentFieldBit5 op second)
  | O, .es => withOperand second (.movSregRm .es) bs
  | O, .cs => .error (.movCs second)
  | O, .ss => withOperand second (.movSregRm .ss) bs
  | O, .ds => withOperand second (.movSregRm .ds) bs

/-- D4H and D5H: the second byte is the fixed pattern 00001010 (R243, R246, D25). -/
def decodeAdjust (op : Byte) (i : Instr) (bs : List Byte) : Parse Instr :=
  parseThen (takeByte bs) fun second bs =>
  if second = 0x0A#8 then .ok (i, bs) else .error (.adjustBase op second)

/-- D8H to DFH: ESC with its six don't-care bits (R135, R410). -/
def decodeEsc (x1 : Bits3) (bs : List Byte) : Parse Instr :=
  parseThen (takeByte bs) fun second bs =>
  parseThen (takeRM second bs) fun rm bs =>
  .ok (.esc x1 (regField second) rm, bs)

/-! The opcode map of R120, one definition per row (the high four bits of the opcode byte). -/

/-- 00H to 0FH. -/
def decodeRow0 (b3 b2 b1 b0 : Bit) : List Byte → Parse Instr :=
  match b3, b2, b1, b0 with
  | O, O, d, w => withRegRM (.addRmReg (dirOf d) (widthOf w))
  | O, I, O, w => withImm (widthOf w) .addAccImm
  | O, I, I, O => plain (.pushSreg .es)
  | O, I, I, I => plain (.popSreg .es)
  | I, O, d, w => withRegRM (.orRmReg (dirOf d) (widthOf w))
  | I, I, O, w => withImm (widthOf w) .orAccImm
  | I, I, I, O => plain (.pushSreg .cs)
  | I, I, I, I => fun _ => .error .popCs

/-- 10H to 1FH. -/
def decodeRow1 (b3 b2 b1 b0 : Bit) : List Byte → Parse Instr :=
  match b3, b2, b1, b0 with
  | O, O, d, w => withRegRM (.adcRmReg (dirOf d) (widthOf w))
  | O, I, O, w => withImm (widthOf w) .adcAccImm
  | O, I, I, O => plain (.pushSreg .ss)
  | O, I, I, I => plain (.popSreg .ss)
  | I, O, d, w => withRegRM (.sbbRmReg (dirOf d) (widthOf w))
  | I, I, O, w => withImm (widthOf w) .sbbAccImm
  | I, I, I, O => plain (.pushSreg .ds)
  | I, I, I, I => plain (.popSreg .ds)

/-- 20H to 2FH. -/
def decodeRow2 (b3 b2 b1 b0 : Bit) : List Byte → Parse Instr :=
  match b3, b2, b1, b0 with
  | O, O, d, w => withRegRM (.andRmReg (dirOf d) (widthOf w))
  | O, I, O, w => withImm (widthOf w) .andAccImm
  | O, I, I, O => plain (.segment .es)
  | O, I, I, I => plain .daa
  | I, O, d, w => withRegRM (.subRmReg (dirOf d) (widthOf w))
  | I, I, O, w => withImm (widthOf w) .subAccImm
  | I, I, I, O => plain (.segment .cs)
  | I, I, I, I => plain .das

/-- 30H to 3FH. -/
def decodeRow3 (b3 b2 b1 b0 : Bit) : List Byte → Parse Instr :=
  match b3, b2, b1, b0 with
  | O, O, d, w => withRegRM (.xorRmReg (dirOf d) (widthOf w))
  | O, I, O, w => withImm (widthOf w) .xorAccImm
  | O, I, I, O => plain (.segment .ss)
  | O, I, I, I => plain .aaa
  | I, O, d, w => withRegRM (.cmpRmReg (dirOf d) (widthOf w))
  | I, I, O, w => withImm (widthOf w) .cmpAccImm
  | I, I, I, O => plain (.segment .ds)
  | I, I, I, I => plain .aas

/-- 40H to 4FH. -/
def decodeRow4 (b3 b2 b1 b0 : Bit) : List Byte → Parse Instr :=
  let r := (RegNum.ofBits (bits3Of b2 b1 b0)).reg16
  match b3 with
  | O => plain (.incReg r)
  | I => plain (.decReg r)

/-- 50H to 5FH. -/
def decodeRow5 (b3 b2 b1 b0 : Bit) : List Byte → Parse Instr :=
  let r := (RegNum.ofBits (bits3Of b2 b1 b0)).reg16
  match b3 with
  | O => plain (.pushReg r)
  | I => plain (.popReg r)

/-- 70H to 7FH: the sixteen conditional jumps (R350). -/
def decodeRow7 (b3 b2 b1 b0 : Bit) : List Byte → Parse Instr :=
  match b3, b2, b1, b0 with
  | O, O, O, O => withByte .jo
  | O, O, O, I => withByte .jno
  | O, O, I, O => withByte .jb
  | O, O, I, I => withByte .jnb
  | O, I, O, O => withByte .je
  | O, I, O, I => withByte .jne
  | O, I, I, O => withByte .jbe
  | O, I, I, I => withByte .jnbe
  | I, O, O, O => withByte .js
  | I, O, O, I => withByte .jns
  | I, O, I, O => withByte .jp
  | I, O, I, I => withByte .jnp
  | I, I, O, O => withByte .jl
  | I, I, O, I => withByte .jnl
  | I, I, I, O => withByte .jle
  | I, I, I, I => withByte .jnle

/-- 80H to 8FH. -/
def decodeRow8 (op : Byte) (b3 b2 b1 b0 : Bit) : List Byte → Parse Instr :=
  match b3, b2, b1, b0 with
  | O, O, s, w => decodeGrp1 op s w
  | O, I, O, w => withRegRM (.testRmReg (widthOf w))
  | O, I, I, w => withRegRM (.xchgRmReg (widthOf w))
  | I, O, d, w => withRegRM (.movRmReg (dirOf d) (widthOf w))
  | I, I, O, O => decodeMovRmSreg op
  | I, I, O, I => withRegMem op .lea
  | I, I, I, O => decodeMovSregRm op
  | I, I, I, I => decodePopRm op

/-- 90H to 9FH. -/
def decodeRow9 (b3 b2 b1 b0 : Bit) : List Byte → Parse Instr :=
  match b3, b2, b1, b0 with
  | O, r2, r1, r0 => plain (.xchgAccReg (RegNum.ofBits (bits3Of r2 r1 r0)).reg16)
  | I, O, O, O => plain .cbw
  | I, O, O, I => plain .cwd
  | I, O, I, O => withFar .callFar
  | I, O, I, I => plain .wait
  | I, I, O, O => plain .pushf
  | I, I, O, I => plain .popf
  | I, I, I, O => plain .sahf
  | I, I, I, I => plain .lahf

/-- A0H to AFH. -/
def decodeRowA (b3 b2 b1 b0 : Bit) : List Byte → Parse Instr :=
  match b3, b2, b1, b0 with
  | O, O, O, w => withWord (.movAccMem (widthOf w))
  | O, O, I, w => withWord (.movMemAcc (widthOf w))
  | O, I, O, w => plain (.movs (widthOf w))
  | O, I, I, w => plain (.cmps (widthOf w))
  | I, O, O, w => withImm (widthOf w) .testAccImm
  | I, O, I, w => plain (.stos (widthOf w))
  | I, I, O, w => plain (.lods (widthOf w))
  | I, I, I, w => plain (.scas (widthOf w))

/-- B0H to BFH: MOV reg, immediate, with `w` in bit 3 (R153). -/
def decodeRowB (b3 b2 b1 b0 : Bit) : List Byte → Parse Instr :=
  withImm (widthOf b3) (.movRegImm (RegNum.ofBits (bits3Of b2 b1 b0)))

/-- C0H to CFH. -/
def decodeRowC (op : Byte) (b3 b2 b1 b0 : Bit) : List Byte → Parse Instr :=
  match b3, b2, b1, b0 with
  | O, O, O, _ => fun _ => .error (.unlistedOpcode op)
  | O, O, I, O => withWord .retImm
  | O, O, I, I => plain .ret
  | O, I, O, O => withRegMem op .les
  | O, I, O, I => withRegMem op .lds
  | O, I, I, w => decodeMovRmImm op (widthOf w)
  | I, O, O, _ => fun _ => .error (.unlistedOpcode op)
  | I, O, I, O => withWord .retfImm
  | I, O, I, I => plain .retf
  | I, I, O, O => plain .int3
  | I, I, O, I => withByte .intN
  | I, I, I, O => plain .into
  | I, I, I, I => plain .iret

/-- D0H to DFH. -/
def decodeRowD (op : Byte) (b3 b2 b1 b0 : Bit) : List Byte → Parse Instr :=
  match b3, b2, b1, b0 with
  | O, O, v, w => decodeGrp2 op (countOf v) (widthOf w)
  | O, I, O, O => decodeAdjust op .aam
  | O, I, O, I => decodeAdjust op .aad
  | O, I, I, O => fun _ => .error (.unlistedOpcode op)
  | O, I, I, I => plain .xlat
  | I, x2, x1, x0 => decodeEsc (bits3Of x2 x1 x0)

/-- E0H to EFH. -/
def decodeRowE (b3 b2 b1 b0 : Bit) : List Byte → Parse Instr :=
  match b3, b2, b1, b0 with
  | O, O, O, O => withByte .loopnz
  | O, O, O, I => withByte .loopz
  | O, O, I, O => withByte .loop
  | O, O, I, I => withByte .jcxz
  | O, I, O, w => withByte (.inFixed (widthOf w))
  | O, I, I, w => withByte (.outFixed (widthOf w))
  | I, O, O, O => withWord .callNear
  | I, O, O, I => withWord .jmpNear
  | I, O, I, O => withFar .jmpFar
  | I, O, I, I => withByte .jmpShort
  | I, I, O, w => plain (.inVar (widthOf w))
  | I, I, I, w => plain (.outVar (widthOf w))

/-- F0H to FFH. -/
def decodeRowF (op : Byte) (b3 b2 b1 b0 : Bit) : List Byte → Parse Instr :=
  match b3, b2, b1, b0 with
  | O, O, O, O => plain .lock
  | O, O, O, I => fun _ => .error (.unlistedOpcode op)
  | O, O, I, z => plain (.rep z.toBool)
  | O, I, O, O => plain .hlt
  | O, I, O, I => plain .cmc
  | O, I, I, w => decodeGrp3 op (widthOf w)
  | I, O, O, O => plain .clc
  | I, O, O, I => plain .stc
  | I, O, I, O => plain .cli
  | I, O, I, I => plain .sti
  | I, I, O, O => plain .cld
  | I, I, O, I => plain .std
  | I, I, I, O => decodeGrp4 op
  | I, I, I, I => decodeGrp5 op

/-- The opcode map of R120. -/
def decodeOpcode (op : Byte) : List Byte → Parse Instr :=
  let b3 := bitOf op 3
  let b2 := bitOf op 2
  let b1 := bitOf op 1
  let b0 := bitOf op 0
  match bitOf op 7, bitOf op 6, bitOf op 5, bitOf op 4 with
  | O, O, O, O => decodeRow0 b3 b2 b1 b0
  | O, O, O, I => decodeRow1 b3 b2 b1 b0
  | O, O, I, O => decodeRow2 b3 b2 b1 b0
  | O, O, I, I => decodeRow3 b3 b2 b1 b0
  | O, I, O, O => decodeRow4 b3 b2 b1 b0
  | O, I, O, I => decodeRow5 b3 b2 b1 b0
  | O, I, I, O => fun _ => .error (.unlistedOpcode op)
  | O, I, I, I => decodeRow7 b3 b2 b1 b0
  | I, O, O, O => decodeRow8 op b3 b2 b1 b0
  | I, O, O, I => decodeRow9 b3 b2 b1 b0
  | I, O, I, O => decodeRowA b3 b2 b1 b0
  | I, O, I, I => decodeRowB b3 b2 b1 b0
  | I, I, O, O => decodeRowC op b3 b2 b1 b0
  | I, I, O, I => decodeRowD op b3 b2 b1 b0
  | I, I, I, O => decodeRowE b3 b2 b1 b0
  | I, I, I, I => decodeRowF op b3 b2 b1 b0

/-- The instruction the bytes begin with and the bytes after it, or the name of the refusal (R116). A prefix byte
is an instruction of its own here (log 5). -/
def decode : List Byte → Parse Instr
  | [] => .error .truncated
  | op :: bs => decodeOpcode op bs

/-! ## The encoder -/

/-- The two bytes of a word, low byte first (R65). -/
def bytesOfWord (w : Word) : List Byte := [lowByte w, highByte w]

def encodeImm : Imm → List Byte
  | .b v => [v]
  | .w v => bytesOfWord v

def Imm.width : Imm → Width
  | .b _ => .byte
  | .w _ => .word

def encodeImmSW : ImmSW → List Byte
  | .b80 v => [v]
  | .w81 v => bytesOfWord v
  | .b82 v => [v]
  | .sx83 v => [v]

/-- The opcode byte 100000sw of an immediate (R115). -/
def opcodeOfImmSW : ImmSW → Byte
  | .b80 _ => byteOf I O O O O O O O
  | .w81 _ => byteOf I O O O O O O I
  | .b82 _ => byteOf I O O O O O I O
  | .sx83 _ => byteOf I O O O O O I I

/-- The second byte from mod, the middle field and r/m (R111). -/
def secondByte (m7 m6 : Bit) (mid rm : Bits3) : Byte :=
  byteOf m7 m6 mid.toBits.1 mid.toBits.2.1 mid.toBits.2.2 rm.toBits.1 rm.toBits.2.1 rm.toBits.2.2

/-- The second byte and the displacement of a memory operand (R111 to R113). -/
def encodeMem (mid : Bits3) : MemOp → List Byte
  | .based base .none => [secondByte O O mid base.toBits3]
  | .based base (.d8 b) => [secondByte O I mid base.toBits3, b]
  | .based base (.d16 w) => secondByte I O mid base.toBits3 :: bytesOfWord w
  | .direct a => secondByte O O mid .b110 :: bytesOfWord a

/-- The second byte and the displacement of an operand r/m. -/
def encodeRM (mid : Bits3) : RM → List Byte
  | .reg n => [secondByte I I mid n.toBits3]
  | .mem m => encodeMem mid m

/-- The three bits `0 reg` of the two formats F-MS (R102). -/
def midOfSReg (sr : SReg) : Bits3 := bits3Of O sr.toBits.1 sr.toBits.2

/-- An opcode byte whose last three bits are a register number. -/
def opcodeReg (b7 b6 b5 b4 b3 : Bit) (n : Bits3) : Byte :=
  byteOf b7 b6 b5 b4 b3 n.toBits.1 n.toBits.2.1 n.toBits.2.2

/-- The bytes of an instruction, from the encoding column of the Instruction Set Summary (R102, R120, R121). -/
def encode : Instr → List Byte
  | .movRmReg d w rm reg => byteOf I O O O I O (bitOfDir d) (bitOfWidth w) :: encodeRM reg.toBits3 rm
  | .movRmImm rm imm => byteOf I I O O O I I (bitOfWidth imm.width) :: encodeRM .b000 rm ++ encodeImm imm
  | .movRegImm reg imm => opcodeReg I O I I (bitOfWidth imm.width) reg.toBits3 :: encodeImm imm
  | .movAccMem w addr => byteOf I O I O O O O (bitOfWidth w) :: bytesOfWord addr
  | .movMemAcc w addr => byteOf I O I O O O I (bitOfWidth w) :: bytesOfWord addr
  | .movSregRm sr rm => byteOf I O O O I I I O :: encodeRM (midOfSReg sr.toSReg) rm
  | .movRmSreg rm sr => byteOf I O O O I I O O :: encodeRM (midOfSReg sr) rm
  | .pushRm rm => byteOf I I I I I I I I :: encodeRM .b110 rm
  | .pushReg r => [opcodeReg O I O I O r.toBits3]
  | .pushSreg sr => [byteOf O O O sr.toBits.1 sr.toBits.2 I I O]
  | .popRm rm => byteOf I O O O I I I I :: encodeRM .b000 rm
  | .popReg r => [opcodeReg O I O I I r.toBits3]
  | .popSreg sr => [byteOf O O O sr.toSReg.toBits.1 sr.toSReg.toBits.2 I I I]
  | .xchgRmReg w rm reg => byteOf I O O O O I I (bitOfWidth w) :: encodeRM reg.toBits3 rm
  | .xchgAccReg r => [opcodeReg I O O I O r.toBits3]
  | .inFixed w port => byteOf I I I O O I O (bitOfWidth w) :: [port]
  | .inVar w => [byteOf I I I O I I O (bitOfWidth w)]
  | .outFixed w port => byteOf I I I O O I I (bitOfWidth w) :: [port]
  | .outVar w => [byteOf I I I O I I I (bitOfWidth w)]
  | .xlat => [byteOf I I O I O I I I]
  | .lea r m => byteOf I O O O I I O I :: encodeMem r.toBits3 m
  | .lds r m => byteOf I I O O O I O I :: encodeMem r.toBits3 m
  | .les r m => byteOf I I O O O I O O :: encodeMem r.toBits3 m
  | .lahf => [byteOf I O O I I I I I]
  | .sahf => [byteOf I O O I I I I O]
  | .pushf => [byteOf I O O I I I O O]
  | .popf => [byteOf I O O I I I O I]
  | .addRmReg d w rm reg => byteOf O O O O O O (bitOfDir d) (bitOfWidth w) :: encodeRM reg.toBits3 rm
  | .addRmImm rm imm => opcodeOfImmSW imm :: encodeRM .b000 rm ++ encodeImmSW imm
  | .addAccImm imm => byteOf O O O O O I O (bitOfWidth imm.width) :: encodeImm imm
  | .adcRmReg d w rm reg => byteOf O O O I O O (bitOfDir d) (bitOfWidth w) :: encodeRM reg.toBits3 rm
  | .adcRmImm rm imm => opcodeOfImmSW imm :: encodeRM .b010 rm ++ encodeImmSW imm
  | .adcAccImm imm => byteOf O O O I O I O (bitOfWidth imm.width) :: encodeImm imm
  | .incRm w rm => byteOf I I I I I I I (bitOfWidth w) :: encodeRM .b000 rm
  | .incReg r => [opcodeReg O I O O O r.toBits3]
  | .aaa => [byteOf O O I I O I I I]
  | .daa => [byteOf O O I O O I I I]
  | .subRmReg d w rm reg => byteOf O O I O I O (bitOfDir d) (bitOfWidth w) :: encodeRM reg.toBits3 rm
  | .subRmImm rm imm => opcodeOfImmSW imm :: encodeRM .b101 rm ++ encodeImmSW imm
  | .subAccImm imm => byteOf O O I O I I O (bitOfWidth imm.width) :: encodeImm imm
  | .sbbRmReg d w rm reg => byteOf O O O I I O (bitOfDir d) (bitOfWidth w) :: encodeRM reg.toBits3 rm
  | .sbbRmImm rm imm => opcodeOfImmSW imm :: encodeRM .b011 rm ++ encodeImmSW imm
  | .sbbAccImm imm => byteOf O O O I I I O (bitOfWidth imm.width) :: encodeImm imm
  | .decRm w rm => byteOf I I I I I I I (bitOfWidth w) :: encodeRM .b001 rm
  | .decReg r => [opcodeReg O I O O I r.toBits3]
  | .negRm w rm => byteOf I I I I O I I (bitOfWidth w) :: encodeRM .b011 rm
  | .cmpRmReg d w rm reg => byteOf O O I I I O (bitOfDir d) (bitOfWidth w) :: encodeRM reg.toBits3 rm
  | .cmpRmImm rm imm => opcodeOfImmSW imm :: encodeRM .b111 rm ++ encodeImmSW imm
  | .cmpAccImm imm => byteOf O O I I I I O (bitOfWidth imm.width) :: encodeImm imm
  | .aas => [byteOf O O I I I I I I]
  | .das => [byteOf O O I O I I I I]
  | .mulRm w rm => byteOf I I I I O I I (bitOfWidth w) :: encodeRM .b100 rm
  | .imulRm w rm => byteOf I I I I O I I (bitOfWidth w) :: encodeRM .b101 rm
  | .aam => byteOf I I O I O I O O :: [byteOf O O O O I O I O]
  | .divRm w rm => byteOf I I I I O I I (bitOfWidth w) :: encodeRM .b110 rm
  | .idivRm w rm => byteOf I I I I O I I (bitOfWidth w) :: encodeRM .b111 rm
  | .aad => byteOf I I O I O I O I :: [byteOf O O O O I O I O]
  | .cbw => [byteOf I O O I I O O O]
  | .cwd => [byteOf I O O I I O O I]
  | .notRm w rm => byteOf I I I I O I I (bitOfWidth w) :: encodeRM .b010 rm
  | .shl v w rm => byteOf I I O I O O (bitOfCount v) (bitOfWidth w) :: encodeRM .b100 rm
  | .shr v w rm => byteOf I I O I O O (bitOfCount v) (bitOfWidth w) :: encodeRM .b101 rm
  | .sar v w rm => byteOf I I O I O O (bitOfCount v) (bitOfWidth w) :: encodeRM .b111 rm
  | .rol v w rm => byteOf I I O I O O (bitOfCount v) (bitOfWidth w) :: encodeRM .b000 rm
  | .ror v w rm => byteOf I I O I O O (bitOfCount v) (bitOfWidth w) :: encodeRM .b001 rm
  | .rcl v w rm => byteOf I I O I O O (bitOfCount v) (bitOfWidth w) :: encodeRM .b010 rm
  | .rcr v w rm => byteOf I I O I O O (bitOfCount v) (bitOfWidth w) :: encodeRM .b011 rm
  | .andRmReg d w rm reg => byteOf O O I O O O (bitOfDir d) (bitOfWidth w) :: encodeRM reg.toBits3 rm
  | .andRmImm rm imm => byteOf I O O O O O O (bitOfWidth imm.width) :: encodeRM .b100 rm ++ encodeImm imm
  | .andAccImm imm => byteOf O O I O O I O (bitOfWidth imm.width) :: encodeImm imm
  | .testRmReg w rm reg => byteOf I O O O O I O (bitOfWidth w) :: encodeRM reg.toBits3 rm
  | .testRmImm rm imm => byteOf I I I I O I I (bitOfWidth imm.width) :: encodeRM .b000 rm ++ encodeImm imm
  | .testAccImm imm => byteOf I O I O I O O (bitOfWidth imm.width) :: encodeImm imm
  | .orRmReg d w rm reg => byteOf O O O O I O (bitOfDir d) (bitOfWidth w) :: encodeRM reg.toBits3 rm
  | .orRmImm rm imm => byteOf I O O O O O O (bitOfWidth imm.width) :: encodeRM .b001 rm ++ encodeImm imm
  | .orAccImm imm => byteOf O O O O I I O (bitOfWidth imm.width) :: encodeImm imm
  | .xorRmReg d w rm reg => byteOf O O I I O O (bitOfDir d) (bitOfWidth w) :: encodeRM reg.toBits3 rm
  | .xorRmImm rm imm => byteOf I O O O O O O (bitOfWidth imm.width) :: encodeRM .b110 rm ++ encodeImm imm
  | .xorAccImm imm => byteOf O O I I O I O (bitOfWidth imm.width) :: encodeImm imm
  | .rep z => [byteOf I I I I O O I (bitOfBool z)]
  | .movs w => [byteOf I O I O O I O (bitOfWidth w)]
  | .cmps w => [byteOf I O I O O I I (bitOfWidth w)]
  | .scas w => [byteOf I O I O I I I (bitOfWidth w)]
  | .lods w => [byteOf I O I O I I O (bitOfWidth w)]
  | .stos w => [byteOf I O I O I O I (bitOfWidth w)]
  | .callNear disp => byteOf I I I O I O O O :: bytesOfWord disp
  | .callRm rm => byteOf I I I I I I I I :: encodeRM .b010 rm
  | .callFar off seg => byteOf I O O I I O I O :: bytesOfWord off ++ bytesOfWord seg
  | .callMemFar m => byteOf I I I I I I I I :: encodeMem .b011 m
  | .jmpNear disp => byteOf I I I O I O O I :: bytesOfWord disp
  | .jmpShort disp => byteOf I I I O I O I I :: [disp]
  | .jmpRm rm => byteOf I I I I I I I I :: encodeRM .b100 rm
  | .jmpFar off seg => byteOf I I I O I O I O :: bytesOfWord off ++ bytesOfWord seg
  | .jmpMemFar m => byteOf I I I I I I I I :: encodeMem .b101 m
  | .ret => [byteOf I I O O O O I I]
  | .retImm n => byteOf I I O O O O I O :: bytesOfWord n
  | .retf => [byteOf I I O O I O I I]
  | .retfImm n => byteOf I I O O I O I O :: bytesOfWord n
  | .jo disp => byteOf O I I I O O O O :: [disp]
  | .jno disp => byteOf O I I I O O O I :: [disp]
  | .jb disp => byteOf O I I I O O I O :: [disp]
  | .jnb disp => byteOf O I I I O O I I :: [disp]
  | .je disp => byteOf O I I I O I O O :: [disp]
  | .jne disp => byteOf O I I I O I O I :: [disp]
  | .jbe disp => byteOf O I I I O I I O :: [disp]
  | .jnbe disp => byteOf O I I I O I I I :: [disp]
  | .js disp => byteOf O I I I I O O O :: [disp]
  | .jns disp => byteOf O I I I I O O I :: [disp]
  | .jp disp => byteOf O I I I I O I O :: [disp]
  | .jnp disp => byteOf O I I I I O I I :: [disp]
  | .jl disp => byteOf O I I I I I O O :: [disp]
  | .jnl disp => byteOf O I I I I I O I :: [disp]
  | .jle disp => byteOf O I I I I I I O :: [disp]
  | .jnle disp => byteOf O I I I I I I I :: [disp]
  | .loop disp => byteOf I I I O O O I O :: [disp]
  | .loopz disp => byteOf I I I O O O O I :: [disp]
  | .loopnz disp => byteOf I I I O O O O O :: [disp]
  | .jcxz disp => byteOf I I I O O O I I :: [disp]
  | .intN t => byteOf I I O O I I O I :: [t]
  | .int3 => [byteOf I I O O I I O O]
  | .into => [byteOf I I O O I I I O]
  | .iret => [byteOf I I O O I I I I]
  | .clc => [byteOf I I I I I O O O]
  | .cmc => [byteOf I I I I O I O I]
  | .stc => [byteOf I I I I I O O I]
  | .cld => [byteOf I I I I I I O O]
  | .std => [byteOf I I I I I I O I]
  | .cli => [byteOf I I I I I O I O]
  | .sti => [byteOf I I I I I O I I]
  | .hlt => [byteOf I I I I O I O O]
  | .wait => [byteOf I O O I I O I I]
  | .esc x1 x2 rm => byteOf I I O I I x1.toBits.1 x1.toBits.2.1 x1.toBits.2.2 :: encodeRM x2 rm
  | .lock => [byteOf I I I I O O O O]
  | .segment sr => [byteOf O O I sr.toBits.1 sr.toBits.2 I I O]

/-! ## The host's entry -/

/-- The bytes of a number whose first byte is its most significant one: the numbering of the rows of
spec/opcode_table.json, where an instruction's opcode byte is the most significant byte of `fixed` (R142, log 20).
Past the given bits come zeros, up to the longest instruction. -/
def tableBytes (nbits w : Nat) : List Byte :=
  (List.range 6).map fun k =>
    if 8 * (k + 1) ≤ nbits then BitVec.ofNat 8 (w / 2 ^ (nbits - 8 * (k + 1))) else 0#8

/-- The instruction the decoder reads from a table row's word. -/
def decodeTableWord (nbits w : Nat) : Option Instr :=
  match decode (tableBytes nbits w) with
  | .ok (i, _) => some i
  | .error _ => none

end Sys2Proof
end

