-- ==== Sys2Proof/Machine/State.lean ====
section
/-! DEFINITION. The state of the 80C88 as plain data: the registers of 10_state.md, memory, the hidden state of its
rule R45, the parameters of 00_scope.md R6 and the environment's part of 60_exceptions.md R479; the reasons a step
can stop; and the state after reset (R50). -/

namespace Sys2Proof.Machine

/-- FLAGS (R30): the nine flags, each a bit; the seven X positions hold no state (R41). -/
structure Flags where
  /-- Carry, FLAGS[0] (R31). -/
  CF : Bool
  /-- Parity, FLAGS[2] (R32). -/
  PF : Bool
  /-- Auxiliary carry, FLAGS[4] (R33). -/
  AF : Bool
  /-- Zero, FLAGS[6] (R34). -/
  ZF : Bool
  /-- Sign, FLAGS[7] (R35). -/
  SF : Bool
  /-- Trap, FLAGS[8] (R36). -/
  TF : Bool
  /-- Interrupt enable, FLAGS[9] (R37). -/
  IF : Bool
  /-- Direction, FLAGS[10] (R38). -/
  DF : Bool
  /-- Overflow, FLAGS[11] (R39). -/
  OF : Bool
  deriving DecidableEq, Repr

/-- All nine flags 0 (R50). -/
def Flags.clear : Flags :=
  { CF := false, PF := false, AF := false, ZF := false, SF := false, TF := false, IF := false, DF := false,
    OF := false }

/-- The kinds of bus cycle of R472; the passive state is not a cycle. -/
inductive BusKind where
  /-- Interrupt Acknowledge. -/
  | inta
  /-- Read I/O Port. -/
  | ioRead
  /-- Write I/O Port. -/
  | ioWrite
  /-- Halt: a status without a transfer. -/
  | halt
  /-- Code Access: an instruction byte. -/
  | code
  /-- Read Memory. -/
  | memRead
  /-- Write Memory. -/
  | memWrite
  deriving DecidableEq, Repr

/-- What S4 and S3 say of a cycle (R473). -/
inductive SegStatus where
  /-- 00, "Alternate Data": ES. -/
  | alternateData
  /-- 01: SS. -/
  | stack
  /-- 10: CS or no segment register. -/
  | codeOrNone
  /-- 11: DS. -/
  | data
  deriving DecidableEq, Repr

/-- One bus cycle as the pins show it (R472, R473, R82). -/
structure BusCycle where
  kind : BusKind
  seg : SegStatus
  /-- The 20 address bits; none for an acknowledge cycle or the halt status, which drive none (R441, R408). -/
  addr : Option PAddr
  /-- The byte transferred; none in the first acknowledge cycle and for the halt status. -/
  data : Option Byte
  /-- S5: the IF flag (R37). -/
  s5 : Bool
  /-- The LOCK output is active; it exists in maximum mode only (R82). -/
  lock : Bool
  deriving DecidableEq, Repr

/-- The pin a bus request comes in by (R471). RQ/GT0 goes before RQ/GT1 (R476). -/
inductive BusPin where
  /-- Pin 31: HOLD in minimum mode, RQ/GT0 in maximum mode. -/
  | first
  /-- Pin 30: RQ/GT1, in maximum mode only. -/
  | second
  deriving DecidableEq, Repr

/-- A request for the bus by another master, with the bytes it writes once it has the bus, in order (R80). -/
structure BusRequest where
  pin : BusPin
  writes : List (PAddr × Byte)
  deriving DecidableEq, Repr

/-- The interrupt pins at one recognition point, where they are sampled (R436, D15). -/
structure InterruptPins where
  /-- A low-to-high transition of NMI has happened since the point before (R433). -/
  nmi : Bool
  /-- INTR is high (R434). -/
  intr : Bool
  /-- The byte an acknowledge sequence reads (R441). -/
  intaType : Byte
  deriving DecidableEq, Repr

/-- The input pins at one step (R6 PIN_INPUTS, R479), the interrupt pins as they are at the boundary it begins with. -/
structure PinSample extends InterruptPins where
  /-- RESET is high (R500). -/
  reset : Bool
  /-- TEST is low (R478). -/
  testLow : Bool
  /-- READY is high (R477). -/
  ready : Bool
  /-- The bus requests made before the step begins (R475, R476). -/
  requests : List BusRequest
  /-- The bus requests made inside the step: the k-th entry is made before the k-th bus cycle that the step itself
  runs, prefetch cycles not counted (R80, R475, D7). -/
  gaps : List (List BusRequest)
  /-- The interrupt pins at the recognition point inside the step: after the prefixes, before the first iteration of a
  repetition (R301, R302). Asked for only in a step that has that point; elsewhere a transition of NMI inside a step is
  in the next sample (log 11). -/
  inside : InterruptPins
  deriving DecidableEq, Repr

/-- The machine. -/
structure State where
  AX : Word
  CX : Word
  DX : Word
  BX : Word
  SP : Word
  BP : Word
  SI : Word
  DI : Word
  ES : Word
  CS : Word
  SS : Word
  DS : Word
  /-- The instruction pointer; inside an instruction it is past the instruction's last byte (R26). -/
  IP : Word
  flags : Flags
  /-- Memory, as the bytes that differ from what an unlisted address reads as, addresses rising. -/
  mem : List Host.Cell
  /-- The instruction queue: the bytes prefetched after the byte last consumed, oldest first, at most four (R45,
  R85). -/
  queue : List Byte
  /-- An NMI edge seen and not yet serviced (R433). -/
  nmiLatch : Bool
  /-- The next boundary recognises no interrupt, nor does the point before the first iteration (R437 a, R301, R502). -/
  fullShadow : Bool
  /-- The next boundary does not recognise INTR (R437 c). -/
  stiShadow : Bool
  /-- The chip executed HLT (R408). -/
  halted : Bool
  /-- The chip examined TEST in a WAIT and found it high (R409). -/
  waiting : Bool
  /-- The segment override in force (R412). -/
  ovr : Option SReg
  /-- The repeat prefix in force, with its z (R301). -/
  rep : Option Bool
  /-- The LOCK prefix is in force (R411). -/
  lock : Bool
  /-- The string primitive that has iterations left (R302). -/
  repeating : Option Instr
  /-- The bus is granted to another master (R475, R476). -/
  busGranted : Bool
  /-- The bus cycle in progress waits for READY (R477). -/
  stalled : Bool
  /-- The bus requests recorded and not yet honored (R82, R476). -/
  requests : List BusRequest
  /-- TF when the current or last instruction began (R438, R446). -/
  trapDue : Bool
  /-- The model's own: the last thing done was a hardware interrupt sequence (log 21). -/
  afterSeq : Bool
  /-- The model's own: no instruction has begun since RESET, so there is no boundary yet (R436, R502, log 14). -/
  fresh : Bool
  /-- The parameters of R6; no step changes them (log 4). -/
  params : Params
  /-- The pins at this step, none when the environment says nothing (log 11). -/
  pins : Option PinSample
  /-- The pin samples to come, one a step (log 11). -/
  env : List PinSample
  /-- The bus requests to come before the bus cycles of this step (log 15). -/
  gaps : List (List BusRequest)
  /-- The bytes the I/O devices will answer (log 12). -/
  portIn : List Byte
  /-- The bytes the devices in memory will answer (R79, R457, log 12). -/
  devIn : List Byte
  /-- The bus cycles run, newest first (log 13). -/
  bus : List BusCycle
  /-- The model's own: how many free values have been drawn (log 22). -/
  draws : Nat
  deriving DecidableEq, Repr

/-- There is no fault: nothing stops an 80C88 (R451), and every interrupt is a next state (R440). -/
inductive Fault where
  deriving DecidableEq, Repr

/-- Why a step is refused: the encodings the spec gives no meaning. -/
inductive Refusal where
  /-- An instruction whose meaning is not written yet. None is left. Safe. -/
  | notModelled (mnemonic : String)
  /-- The fetch met an encoding of R130 to R132. Raised by a step. Safe: the spec says refuse. -/
  | undecodable (e : DecodeError)
  /-- A repeat prefix before an instruction other than the five string primitives (R101, D29). Raised by a step.
  Safe: the spec says refuse. -/
  | repeatBeforeNonString (i : Instr)
  deriving DecidableEq, Repr

/-- The state after RESET (R50). The general registers, whose reset values the spec leaves unspecified, are zero
here: DESIGN CHOICE, unsafe (log 1). The model's own fields and the environment's are empty (log 11, 12, 22). -/
def State.reset : State :=
  { AX := 0x0000#16, CX := 0x0000#16, DX := 0x0000#16, BX := 0x0000#16,
    SP := 0x0000#16, BP := 0x0000#16, SI := 0x0000#16, DI := 0x0000#16,
    ES := 0x0000#16, CS := 0xFFFF#16, SS := 0x0000#16, DS := 0x0000#16,
    IP := 0x0000#16, flags := Flags.clear, mem := [],
    queue := [], nmiLatch := false, fullShadow := false, stiShadow := false, halted := false, waiting := false,
    ovr := none, rep := none, lock := false, repeating := none, busGranted := false,
    stalled := false, requests := [], trapDue := false, afterSeq := false, fresh := true, params := Params.default,
    pins := none, env := [], gaps := [], portIn := [], devIn := [], bus := [], draws := 0 }

end Sys2Proof.Machine
end

