-- ==== Sys2Proof/Machine/Flags.lean ====
section
/-! DEFINITION. The flag helpers of 00_scope.md rule R12, the flags each family writes (10_state.md R42) and FLAGS
as a word (R30, R41). -/

namespace Sys2Proof.Machine

/-! ## The helpers of R12 -/

/-- `PF_of`: the number of 1 bits in r[7:0] is even, whatever the width (R12, R32). -/
def parityEven {n : Nat} (r : BitVec n) : Bool :=
  !(r.getLsbD 0 ^^ r.getLsbD 1 ^^ r.getLsbD 2 ^^ r.getLsbD 3 ^^ r.getLsbD 4 ^^ r.getLsbD 5 ^^ r.getLsbD 6
    ^^ r.getLsbD 7)

/-- `set_szp` (R12). -/
def Flags.setSzp {n : Nat} (f : Flags) (r : BitVec n) : Flags :=
  { f with SF := r.msb, ZF := r == 0#n, PF := parityEven r }

/-- A carry or borrow into an operation, as a number (R12). -/
def carryIn (c : Bool) : Nat := if c then 1 else 0

/-- The result of `add_n` (R12). -/
def addResult {n : Nat} (a b : BitVec n) (c : Bool) : BitVec n := BitVec.ofNat n (a.toNat + b.toNat + carryIn c)

/-- The result of `sub_n` (R12). -/
def subResult {n : Nat} (a b : BitVec n) (c : Bool) : BitVec n := a - b - BitVec.ofNat n (carryIn c)

/-- CF, AF and OF of `add_n`, with `set_szp` of its result (R12). -/
def Flags.ofAdd {n : Nat} (f : Flags) (a b : BitVec n) (c : Bool) : Flags :=
  let r := addResult a b c
  { f.setSzp r with
    CF := decide (2 ^ n ≤ a.toNat + b.toNat + carryIn c)
    AF := decide (16 ≤ a.toNat % 16 + b.toNat % 16 + carryIn c)
    OF := a.msb == b.msb && r.msb != a.msb }

/-- CF, AF and OF of `sub_n`, with `set_szp` of its result (R12). -/
def Flags.ofSub {n : Nat} (f : Flags) (a b : BitVec n) (c : Bool) : Flags :=
  let r := subResult a b c
  { f.setSzp r with
    CF := decide (a.toNat < b.toNat + carryIn c)
    AF := decide (a.toNat % 16 < b.toNat % 16 + carryIn c)
    OF := a.msb != b.msb && r.msb != a.msb }

/-- The flags of AND, OR, XOR and TEST (R260); `af` is the undefined AF. -/
def Flags.ofLogic {n : Nat} (f : Flags) (r : BitVec n) (af : Bool) : Flags :=
  { f.setSzp r with CF := false, OF := false, AF := af }

/-! ## The two-operand instructions -/

/-- The operations of the two-operand arithmetic and logic instructions (R201 to R222, R270 to R281). -/
inductive AluOp where
  | add | adc | sub | sbb | cmp | and | or | xor | test
  deriving DecidableEq, Repr

/-- What the operation computes from destination, source and the incoming CF. -/
def AluOp.result {n : Nat} (op : AluOp) (a b : BitVec n) (cf : Bool) : BitVec n :=
  match op with
  | .add => addResult a b false
  | .adc => addResult a b cf
  | .sub => subResult a b false
  | .sbb => subResult a b cf
  | .cmp => subResult a b false
  | .and => a &&& b
  | .or => a ||| b
  | .xor => a ^^^ b
  | .test => a &&& b

/-- The flags the operation writes; `af` is used where AF is undefined. -/
def AluOp.flags {n : Nat} (op : AluOp) (f : Flags) (a b : BitVec n) (af : Bool) : Flags :=
  match op with
  | .add => f.ofAdd a b false
  | .adc => f.ofAdd a b f.CF
  | .sub => f.ofSub a b false
  | .sbb => f.ofSub a b f.CF
  | .cmp => f.ofSub a b false
  | .and => f.ofLogic (a &&& b) af
  | .or => f.ofLogic (a ||| b) af
  | .xor => f.ofLogic (a ^^^ b) af
  | .test => f.ofLogic (a &&& b) af

/-- Whether AF is undefined after the operation (R260). -/
def AluOp.leavesAF : AluOp → Bool
  | .add => false
  | .adc => false
  | .sub => false
  | .sbb => false
  | .cmp => false
  | .and => true
  | .or => true
  | .xor => true
  | .test => true

/-- Whether the result is written to the destination: not for CMP and TEST (R220, R273). -/
def AluOp.writes : AluOp → Bool
  | .add => true
  | .adc => true
  | .sub => true
  | .sbb => true
  | .cmp => false
  | .and => true
  | .or => true
  | .xor => true
  | .test => false

/-! ## Shifts and rotates -/

/-- The seven shift and rotate operations (R263 to R269). -/
inductive ShiftOp where
  | shl | shr | sar | rol | ror | rcl | rcr
  deriving DecidableEq, Repr

/-- The one-bit step of each operation on the operand and CF. -/
def ShiftOp.step {n : Nat} (op : ShiftOp) (x : BitVec n) (cf : Bool) : BitVec n × Bool :=
  match op with
  | .shl => (x <<< 1, x.msb)
  | .shr => (x >>> 1, x.getLsbD 0)
  | .sar => (x.sshiftRight 1, x.getLsbD 0)
  | .rol => (x <<< 1 ||| (BitVec.ofBool x.msb).setWidth n, x.msb)
  | .ror => (x >>> 1 ||| (BitVec.ofBool (x.getLsbD 0)).setWidth n <<< (n - 1), x.getLsbD 0)
  | .rcl => (x <<< 1 ||| (BitVec.ofBool cf).setWidth n, x.msb)
  | .rcr => (x >>> 1 ||| (BitVec.ofBool cf).setWidth n <<< (n - 1), x.getLsbD 0)

/-- `repeat count times` (R262): the count is not reduced (D13). -/
def ShiftOp.times {n : Nat} (op : ShiftOp) : Nat → BitVec n → Bool → BitVec n × Bool
  | 0, x, cf => (x, cf)
  | k + 1, x, cf => op.times k (op.step x cf).1 (op.step x cf).2

/-- OF after a count of 1: from the operand, the result and the CF left (R263 to R269). -/
def ShiftOp.overflow1 {n : Nat} (op : ShiftOp) (x r : BitVec n) (cf : Bool) : Bool :=
  match op with
  | .shl => r.msb ^^ cf
  | .shr => x.msb
  | .sar => false
  | .rol => r.msb ^^ cf
  | .ror => r.msb ^^ r.getLsbD (n - 2)
  | .rcl => r.msb ^^ cf
  | .rcr => r.msb ^^ r.getLsbD (n - 2)

/-- Shifts write SF, ZF, PF and leave AF undefined; rotates write neither (R263 to R269). -/
def ShiftOp.isShift : ShiftOp → Bool
  | .shl => true
  | .shr => true
  | .sar => true
  | .rol => false
  | .ror => false
  | .rcl => false
  | .rcr => false

/-- The flags after a count other than 0: `of` and `af` are the free values used where OF or AF is undefined. -/
def ShiftOp.flags {n : Nat} (op : ShiftOp) (f : Flags) (count : Nat) (x r : BitVec n) (cf of af : Bool) : Flags :=
  let f := { f with CF := cf, OF := if count = 1 then op.overflow1 x r cf else of }
  if op.isShift then { f.setSzp r with AF := af } else f

/-! ## FLAGS as a word -/

/-- The seven X positions of FLAGS, bits 15 to 12, 5, 3 and 1 (R30, R41). -/
def flagsXMask : Word := 0xF02A#16

/-- One flag at its place in the word. -/
def flagAt (b : Bool) (n : Nat) : Word := (BitVec.ofBool b).setWidth 16 <<< n

/-- FLAGS read as a word: the nine flags at the places of R30, FLAGS_X in the X positions (R41). -/
def Flags.image (f : Flags) (x : Word) : Word :=
  (x &&& flagsXMask) ||| flagAt f.CF 0 ||| flagAt f.PF 2 ||| flagAt f.AF 4 ||| flagAt f.ZF 6 ||| flagAt f.SF 7
    ||| flagAt f.TF 8 ||| flagAt f.IF 9 ||| flagAt f.DF 10 ||| flagAt f.OF 11

/-- The nine flags of a word; the X positions are discarded (R41, R181). -/
def Flags.ofImage (v : Word) : Flags :=
  { CF := v.getLsbD 0, PF := v.getLsbD 2, AF := v.getLsbD 4, ZF := v.getLsbD 6, SF := v.getLsbD 7,
    TF := v.getLsbD 8, IF := v.getLsbD 9, DF := v.getLsbD 10, OF := v.getLsbD 11 }

/-- The byte LAHF delivers: FLAGS[7:0] with FLAGS_X in bits 5, 3 and 1 (R178). -/
def Flags.lowImage (f : Flags) (x : Word) : Byte := (f.image x).setWidth 8

/-- SAHF: SF, ZF, AF, PF and CF from AH; the rest unchanged (R179). -/
def Flags.ofLowImage (f : Flags) (v : Byte) : Flags :=
  { f with SF := v.getLsbD 7, ZF := v.getLsbD 6, AF := v.getLsbD 4, PF := v.getLsbD 2, CF := v.getLsbD 0 }

end Sys2Proof.Machine
end

