-- ==== Sys2Proof/Machine/Ops.lean ====
section
/-! DEFINITION. The named operations every meaning is built from: memory and its canonical form (20_memory.md), the
bus cycles (60_exceptions.md R472, R473) with the prefetches and the other masters that may come between them
(20_memory.md R80 to R85), registers (10_state.md R21, R22, R25), the stack, the I/O space, undefined values
(10_state.md R40), the interrupt sequence (60_exceptions.md R440) and the return from it (R393). -/

namespace Sys2Proof.Machine

/-- What an instruction's meaning answers. -/
abbrev Result := Host.Outcome State Fault Refusal

/-! ## Memory as a list of cells -/

/-- What an address no cell lists reads as. The spec gives RAM no contents: DESIGN CHOICE 00H, unsafe (log 2). -/
def Memory.unlisted : Byte := 0x00#8

/-- The byte at an address. -/
def Memory.read : List Host.Cell → Nat → Byte
  | [], _ => Memory.unlisted
  | (k, v) :: m, a => if k = a then v else Memory.read m a

/-- A cell put at its place among rising addresses. -/
def Memory.insert : List Host.Cell → Nat → Byte → List Host.Cell
  | [], a, v => [(a, v)]
  | (k, u) :: m, a, v => if a < k then (a, v) :: (k, u) :: m else (k, u) :: Memory.insert m a v

/-- The memory with one byte changed, in canonical form: no cell for the value an unlisted address reads as. -/
def Memory.write (m : List Host.Cell) (a : Nat) (v : Byte) : List Host.Cell :=
  let rest := m.filter fun c => c.1 != a
  if v = Memory.unlisted then rest else Memory.insert rest a v

/-- The canonical form: addresses strictly rising and below 2^20 (R60), no cell that says what an unlisted address
reads as anyway. -/
abbrev Memory.wf (m : List Host.Cell) : Prop :=
  m.Pairwise (fun c d => c.1 < d.1) ∧ ∀ c ∈ m, c.1 < 1048576 ∧ c.2 ≠ Memory.unlisted

/-- `phys(seg, off) = (seg * 16 + off) mod 2^20` (R61, D2). -/
def phys (seg off : Word) : PAddr := BitVec.ofNat 20 (seg.toNat * 16 + off.toNat)

/-- What answers at an address: the first region that holds it, RAM where none does (R79, log 3). -/
def kindAt : List MemRegion → PAddr → RegionKind
  | [], _ => .ram
  | r :: rs, pa => if r.base ≤ pa.toNat ∧ pa.toNat < r.base + r.size then r.kind else kindAt rs pa

/-! ## The bus -/

/-- S2 S1 S0 of a bus cycle in maximum mode (R472). -/
def BusKind.statusMax : BusKind → Bool × Bool × Bool
  | .inta => (false, false, false)
  | .ioRead => (false, false, true)
  | .ioWrite => (false, true, false)
  | .halt => (false, true, true)
  | .code => (true, false, false)
  | .memRead => (true, false, true)
  | .memWrite => (true, true, false)

/-- IO/M, DT/R and SS0 of a bus cycle in minimum mode: S2 inverted, S1 and S0 (R471, R472). -/
def BusKind.statusMin (k : BusKind) : Bool × Bool × Bool :=
  (!k.statusMax.1, k.statusMax.2.1, k.statusMax.2.2)

/-- S4 S3 (R473). -/
def SegStatus.code : SegStatus → Bool × Bool
  | .alternateData => (false, false)
  | .stack => (false, true)
  | .codeOrNone => (true, false)
  | .data => (true, true)

/-- The segment status of a reference made through a segment register (R473). -/
def segStatusOf : SReg → SegStatus
  | .es => .alternateData
  | .cs => .codeOrNone
  | .ss => .stack
  | .ds => .data

/-- LOCK holds other masters off: the prefix is in force and the pin exists, in maximum mode only (R82, log 23). -/
def State.lockActive (s : State) : Bool := s.lock && s.params.mode == .max

/-- The bus cycle the pins show in this state. -/
def State.cycle (s : State) (k : BusKind) (sg : SegStatus) (pa : Option PAddr) (d : Option Byte) : BusCycle :=
  { kind := k, seg := sg, addr := pa, data := d, s5 := s.flags.IF, lock := s.lockActive }

/-- One cycle more on the trace. -/
def State.logCycle (s : State) (c : BusCycle) : State := { s with bus := c :: s.bus }

/-- READY is high, or the environment says nothing (R477, log 11). -/
def State.ready (s : State) : Bool :=
  match s.pins with
  | some p => p.ready
  | none => true

/-! ## One read cycle -/

/-- The byte that answers a read: what memory holds, what a device answers next, or a free byte where nobody says
(R64, R79, R457, log 12). -/
def State.physByte (s : State) (pa : PAddr) : Byte :=
  match kindAt s.params.memMap pa with
  | .ram => Memory.read s.mem pa.toNat
  | .rom => Memory.read s.mem pa.toNat
  | .device =>
    match s.devIn with
    | b :: _ => b
    | [] => Config.freeByte s.draws
  | .absent => Config.freeByte s.draws

/-- What the devices answer after a read of an address. -/
def State.devRest (s : State) (pa : PAddr) : List Byte :=
  if kindAt s.params.memMap pa = .device then s.devIn.tail else s.devIn

/-- How many free values a read of an address draws. -/
def State.readDraws (s : State) (pa : PAddr) : Nat :=
  match kindAt s.params.memMap pa with
  | .ram => 0
  | .rom => 0
  | .device => if s.devIn = [] then 1 else 0
  | .absent => 1

/-- One bus cycle that reads a byte, for data or for code (R64, R472). -/
def State.readCycle (s : State) (k : BusKind) (sg : SegStatus) (pa : PAddr) : Byte × State :=
  let b := s.physByte pa
  (b, { s with
        bus := s.cycle k sg (some pa) (some b) :: s.bus
        devIn := s.devRest pa
        draws := s.draws + s.readDraws pa })

/-! ## Prefetch (R45, R85, log 9) -/

/-- Where the next prefetch is: after the bytes the queue holds (R45, R85). A chip that waits on TEST has IP back on
the WAIT byte (R409), and the spec does not say where its queue lies: DESIGN CHOICE, after the WAIT byte, which was
consumed (log 9). -/
def State.prefetchAddr (s : State) : PAddr :=
  phys s.CS ((if s.waiting then s.IP + 1#16 else s.IP) + BitVec.ofNat 16 s.queue.length)

/-- One byte prefetched: a Code Access cycle (R77, R472). -/
def State.prefetchOne (s : State) : State :=
  let r := s.readCycle .code .codeOrNone s.prefetchAddr
  { r.2 with queue := s.queue ++ [r.1] }

/-- Bytes prefetched one after another. -/
def State.prefetchMany : Nat → State → State
  | 0, s => s
  | n + 1, s => State.prefetchMany n s.prefetchOne

/-- What the queue does where it may prefetch: a free number of bytes, up to the four it holds (R85), whatever READY
is, which changes the time alone (R477). Nothing where it may not and while the chip is halted (R408). DESIGN CHOICE for
the moments (log 9). -/
def State.prefetchIf (c : Bool) (s : State) : State :=
  let t :=
    if c && !s.halted then
      State.prefetchMany (Config.freeChoice s.draws % (4 - s.queue.length + 1)) { s with draws := s.draws + 1 }
    else s
  { s with queue := t.queue, bus := t.bus, devIn := t.devIn, draws := t.draws }

/-- A moment at which the queue may prefetch. -/
def State.prefetch (s : State) : State := s.prefetchIf true

/-! ## Other masters between two bus cycles (R80, R82, R83, R475, R476, log 15) -/

/-- A byte stored where RAM answers; nowhere else does a write change memory (R79). -/
def State.storeByte (s : State) (pa : PAddr) (v : Byte) : State :=
  { s with
    mem :=
      match kindAt s.params.memMap pa with
      | .ram => Memory.write s.mem pa.toNat v
      | .rom => s.mem
      | .device => s.mem
      | .absent => s.mem }

/-- What lies between two bus cycles of a step. -/
inductive Gap where
  /-- Nothing in particular. -/
  | free
  /-- The low and the high byte of a word, which are consecutive (R66, R83). -/
  | wordHalf
  /-- The two acknowledge cycles, which are back to back (R441). -/
  | acknowledge
  deriving DecidableEq, Repr

/-- The bus may be given away here: in maximum mode not under LOCK and not between the bytes of a word (R82, R83),
and in no mode between the acknowledge cycles (R441). -/
def State.mayGrant (s : State) : Gap → Bool
  | .free => !s.lockActive
  | .wordHalf => s.params.mode == .min
  | .acknowledge => false

/-- Requests in the order they are honored: RQ/GT0 before RQ/GT1 (R476). -/
def inOrder (l : List BusRequest) : List BusRequest :=
  (l.filter fun r => r.pin == .first) ++ l.filter fun r => r.pin == .second

/-- The bytes other masters write in a gap; after each the chip may have the bus back and prefetch, where `c` says
so. -/
def State.honour (c : Bool) : List (PAddr × Byte) → State → State
  | [], s => s
  | w :: ws, s => State.honour c ws ((s.storeByte w.1 w.2).prefetchIf c)

/-- The requests recorded or made here are honored where the bus may be given away, and recorded where it may not
(R82). Only where OTHER_MASTERS is set does another master write (D7). -/
def State.arbitrate (s : State) (g : Gap) : State :=
  let asked := s.requests ++ s.gaps.headD []
  let t :=
    if s.mayGrant g && s.params.otherMasters then
      State.honour (g == .free) ((inOrder asked).flatMap fun r => r.writes) s
    else s
  { s with
    mem := t.mem
    queue := t.queue
    bus := t.bus
    devIn := t.devIn
    draws := t.draws
    gaps := s.gaps.tail
    requests := if s.mayGrant g then [] else asked }

/-- What comes before a bus cycle the instruction needs: the queue may prefetch, except between two cycles that are
consecutive, and another master may have the bus. -/
def State.gap (s : State) (g : Gap) : State := (s.prefetchIf (g == .free)).arbitrate g

/-! ## Bytes and words of memory -/

/-- `PhysRead8` (R64): one Read Memory cycle. -/
def State.readPhys (s : State) (g : Gap) (sg : SegStatus) (pa : PAddr) : Byte × State :=
  (s.gap g).readCycle .memRead sg pa

/-- `PhysWrite8` (R64): one Write Memory cycle. -/
def State.writePhys (s : State) (g : Gap) (sg : SegStatus) (pa : PAddr) (v : Byte) : State :=
  ((s.gap g).storeByte pa v).logCycle (s.cycle .memWrite sg (some pa) (some v))

/-- `MemRead` (R66): low byte first, the second byte's offset modulo 2^16 (D3). `sr` is the segment register the
pins show, `seg` its value. -/
def State.memRead (s : State) (sr : SReg) (seg off : Word) (w : Width) : BitVec w.bits × State :=
  match w with
  | .byte => s.readPhys .free (segStatusOf sr) (phys seg off)
  | .word =>
    let lo := s.readPhys .free (segStatusOf sr) (phys seg off)
    let hi := lo.2.readPhys .wordHalf (segStatusOf sr) (phys seg (off + 1#16))
    (wordOf lo.1 hi.1, hi.2)

/-- `MemWrite` (R67). -/
def State.memWrite (s : State) (sr : SReg) (seg off : Word) (w : Width) (v : BitVec w.bits) : State :=
  match w, v with
  | .byte, v => s.writePhys .free (segStatusOf sr) (phys seg off) v
  | .word, v =>
    (s.writePhys .free (segStatusOf sr) (phys seg off) (lowByte v)).writePhys .wordHalf (segStatusOf sr)
      (phys seg (off + 1#16)) (highByte v)

/-! ## Registers -/

/-- `reg16[n]` (R21). -/
def State.reg16 (s : State) : Reg16 → Word
  | .ax => s.AX
  | .cx => s.CX
  | .dx => s.DX
  | .bx => s.BX
  | .sp => s.SP
  | .bp => s.BP
  | .si => s.SI
  | .di => s.DI

/-- A write of `reg16[n]` (R21). -/
def State.setReg16 (s : State) (r : Reg16) (v : Word) : State :=
  match r with
  | .ax => { s with AX := v }
  | .cx => { s with CX := v }
  | .dx => { s with DX := v }
  | .bx => { s with BX := v }
  | .sp => { s with SP := v }
  | .bp => { s with BP := v }
  | .si => { s with SI := v }
  | .di => { s with DI := v }

/-- `reg8[n]`: the halves of AX, CX, DX and BX (R22). -/
def State.reg8 (s : State) : Reg8 → Byte
  | .al => lowByte s.AX
  | .cl => lowByte s.CX
  | .dl => lowByte s.DX
  | .bl => lowByte s.BX
  | .ah => highByte s.AX
  | .ch => highByte s.CX
  | .dh => highByte s.DX
  | .bh => highByte s.BX

/-- A write of `reg8[n]`; the other half is unchanged (R22). -/
def State.setReg8 (s : State) (r : Reg8) (v : Byte) : State :=
  match r with
  | .al => { s with AX := wordOf v (highByte s.AX) }
  | .cl => { s with CX := wordOf v (highByte s.CX) }
  | .dl => { s with DX := wordOf v (highByte s.DX) }
  | .bl => { s with BX := wordOf v (highByte s.BX) }
  | .ah => { s with AX := wordOf (lowByte s.AX) v }
  | .ch => { s with CX := wordOf (lowByte s.CX) v }
  | .dh => { s with DX := wordOf (lowByte s.DX) v }
  | .bh => { s with BX := wordOf (lowByte s.BX) v }

/-- `reg_read(w)` (R117). -/
def State.reg (s : State) (w : Width) (n : RegNum) : BitVec w.bits :=
  match w with
  | .byte => s.reg8 n.reg8
  | .word => s.reg16 n.reg16

/-- `reg_write(w, v)` (R117). -/
def State.setReg (s : State) (w : Width) (n : RegNum) (v : BitVec w.bits) : State :=
  match w, v with
  | .byte, v => s.setReg8 n.reg8 v
  | .word, v => s.setReg16 n.reg16 v

/-- The accumulator, AL or AX (R23). -/
def State.acc (s : State) (w : Width) : BitVec w.bits := s.reg w .axAl

/-- A write of the accumulator. -/
def State.setAcc (s : State) (w : Width) (v : BitVec w.bits) : State := s.setReg w .axAl v

/-- `sreg[n]` (R25). -/
def State.sreg (s : State) : SReg → Word
  | .es => s.ES
  | .cs => s.CS
  | .ss => s.SS
  | .ds => s.DS

/-- A write of a segment register other than CS (R25, R514). -/
def State.setDataSReg (s : State) (sr : DataSReg) (v : Word) : State :=
  match sr with
  | .es => { s with ES := v }
  | .ss => { s with SS := v }
  | .ds => { s with DS := v }

/-! ## The stack -/

/-- SP less 2, then the word `f` gives of that state at SS:SP: what PUSH SP stores is the new SP (R68, R159, D14). -/
def State.pushOf (s : State) (f : State → Word) : State :=
  let s1 := { s with SP := s.SP - 2#16 }
  s1.memWrite .ss s1.SS s1.SP .word (f s1)

/-- `push16` (R68). -/
def State.push16 (s : State) (v : Word) : State := s.pushOf fun _ => v

/-- `pop16` (R69). -/
def State.pop16 (s : State) : Word × State :=
  let r := s.memRead .ss s.SS s.SP .word
  (r.1, { r.2 with SP := s.SP + 2#16 })

/-! ## The I/O space -/

/-- The byte that answers a port: what the devices supply next, or a free byte (R75, D16, log 12). -/
def State.portByte (s : State) : Byte :=
  match s.portIn with
  | b :: _ => b
  | [] => Config.freeByte s.draws

/-- One Read I/O Port cycle; A19 to A16 are zero (R74, R75). -/
def State.ioReadByte (s : State) (g : Gap) (port : Word) : Byte × State :=
  let t := s.gap g
  let b := t.portByte
  (b, { t with
        bus := t.cycle .ioRead .codeOrNone (some (port.setWidth 20)) (some b) :: t.bus
        portIn := t.portIn.tail
        draws := t.draws + if t.portIn = [] then 1 else 0 })

/-- `IoRead` (R75): low byte first, the second port modulo 2^16. -/
def State.ioRead (s : State) (port : Word) (w : Width) : BitVec w.bits × State :=
  match w with
  | .byte => s.ioReadByte .free port
  | .word =>
    let lo := s.ioReadByte .free port
    let hi := lo.2.ioReadByte .wordHalf (port + 1#16)
    (wordOf lo.1 hi.1, hi.2)

/-- One Write I/O Port cycle (R76). -/
def State.ioWriteByte (s : State) (g : Gap) (port : Word) (v : Byte) : State :=
  (s.gap g).logCycle (s.cycle .ioWrite .codeOrNone (some (port.setWidth 20)) (some v))

/-- `IoWrite` (R76). -/
def State.ioWrite (s : State) (port : Word) (w : Width) (v : BitVec w.bits) : State :=
  match w, v with
  | .byte, v => s.ioWriteByte .free port v
  | .word, v => (s.ioWriteByte .free port (lowByte v)).ioWriteByte .wordHalf (port + 1#16) (highByte v)

/-! ## Undefined flags (R40): each a fresh free bit (log 7) -/

/-- The instruction leaves CF undefined. -/
def State.undefCF (s : State) : State := { s with flags.CF := Config.freeBit s.draws, draws := s.draws + 1 }
/-- The instruction leaves PF undefined. -/
def State.undefPF (s : State) : State := { s with flags.PF := Config.freeBit s.draws, draws := s.draws + 1 }
/-- The instruction leaves AF undefined. -/
def State.undefAF (s : State) : State := { s with flags.AF := Config.freeBit s.draws, draws := s.draws + 1 }
/-- The instruction leaves ZF undefined. -/
def State.undefZF (s : State) : State := { s with flags.ZF := Config.freeBit s.draws, draws := s.draws + 1 }
/-- The instruction leaves SF undefined. -/
def State.undefSF (s : State) : State := { s with flags.SF := Config.freeBit s.draws, draws := s.draws + 1 }
/-- The instruction leaves OF undefined. -/
def State.undefOF (s : State) : State := { s with flags.OF := Config.freeBit s.draws, draws := s.draws + 1 }

/-! ## Control transfers -/

/-- A transfer within the segment; the queue is emptied (R330, R85). -/
def State.jumpNear (s : State) (ip : Word) : State := { s with IP := ip, queue := [] }

/-- An intersegment transfer (R330). -/
def State.jumpFar (s : State) (cs ip : Word) : State := { s with CS := cs, IP := ip, queue := [] }

/-! ## Taking an interrupt and returning from one -/

/-- The IP an interrupt saves: the next instruction's, or, while a repeated string instruction has iterations left, the
prefix byte just before its opcode byte (R302, R432, R448). After the last iteration it is the next instruction's, for
the single-step trap too: DEDUCED from R446, where R302 says "the same saved IP" (log 21). -/
def State.savedIP (s : State) : Word :=
  match s.repeating with
  | some _ => s.IP - 2#16
  | none => s.IP

/-- The pointer's address `4 * t` (R431). -/
def vectorAddr (t : Byte) (k : Nat) : PAddr := BitVec.ofNat 20 (4 * t.toNat + k)

/-- A byte the three pushes store lies in the pointer that will be read (D31): the pushes go to the six offsets
below SP. -/
def State.vectorOverlapped (s : State) (t : Byte) : Bool :=
  [1#16, 2#16, 3#16, 4#16, 5#16, 6#16].any fun k =>
    [0, 1, 2, 3].any fun j => phys s.SS (s.SP - k) == vectorAddr t j

/-- One word of the pointer: two Read Memory cycles with no segment register (R431, R473). -/
def State.readVector (s : State) (t : Byte) (k : Nat) : Word × State :=
  let lo := s.readPhys .free .codeOrNone (vectorAddr t k)
  let hi := lo.2.readPhys .wordHalf .codeOrNone (vectorAddr t (k + 1))
  (wordOf lo.1 hi.1, hi.2)

/-- The three pushes of the sequence, FLAGS, CS and the saved IP `ip`, with IF and TF cleared after the first
(R440). -/
def State.pushFrame (s : State) (ip : Word) : State :=
  let s1 := s.push16 (s.flags.image s.params.flagsX)
  let s2 := { s1 with flags.IF := false, flags.TF := false }
  (s2.push16 s.CS).push16 ip

/-- `sequence(t)` (R440) with the given saved IP, shared by every cause: three pushes, then CS:IP from the pointer,
free where the pushes overlap it (D31, log 10). It empties the queue and ends halt, wait, repetition and prefixes
(log 24). -/
def State.interrupt (s : State) (t : Byte) (saved : Word) : State :=
  let s1 := s.pushFrame saved
  let ip := s1.readVector t 0
  let cs := ip.2.readVector t 2
  let s2 := cs.2
  let free := s.vectorOverlapped t
  { s2 with
    IP := if free then Config.freeWord s2.draws else ip.1
    CS := if free then Config.freeWord (s2.draws + 1) else cs.1
    draws := s2.draws + if free then 2 else 0
    queue := []
    halted := false
    waiting := false
    ovr := none
    rep := none
    lock := false
    repeating := none }

/-- The return from an interrupt (R393): IP, CS and FLAGS are popped, the X positions discarded. -/
def State.interruptReturn (s : State) : State :=
  let ip := s.pop16
  let cs := ip.2.pop16
  let fl := cs.2.pop16
  { fl.2.jumpFar cs.1 ip.1 with flags := Flags.ofImage fl.1 }

end Sys2Proof.Machine
end

