-- ==== Sys2Proof/Machine/Operands.lean ====
section
/-! DEFINITION. Operand forms: the effective address, the segment, the operand r/m and immediates (30_encoding.md
R111 to R117). -/

namespace Sys2Proof.Machine

/-- The register sum of r/m (R112), modulo 2^16. -/
def State.eaBase (s : State) : EaBase → Word
  | .bxSi => s.BX + s.SI
  | .bxDi => s.BX + s.DI
  | .bpSi => s.BP + s.SI
  | .bpDi => s.BP + s.DI
  | .si => s.SI
  | .di => s.DI
  | .bp => s.BP
  | .bx => s.BX

/-- DISP (R113). -/
def dispValue : Disp → Word
  | .none => 0x0000#16
  | .d8 b => sext16 b
  | .d16 w => w

/-- `EA(mod, rm, DISP)` (R112, R117). -/
def State.ea (s : State) : MemOp → Word
  | .based base d => s.eaBase base + dispValue d
  | .direct a => a

/-- The default segment of a memory operand: SS where the address uses BP, DS otherwise (R62). -/
def defaultSeg : MemOp → SReg
  | .based .bpSi _ => .ss
  | .based .bpDi _ => .ss
  | .based .bp _ => .ss
  | .based .bxSi _ => .ds
  | .based .bxDi _ => .ds
  | .based .si _ => .ds
  | .based .di _ => .ds
  | .based .bx _ => .ds
  | .direct _ => .ds

/-- `SEG(mod, rm)`: the override where one is in force, else the default (R63, R117). -/
def State.segOf (s : State) (m : MemOp) : SReg := s.ovr.getD (defaultSeg m)

/-- The segment of a data reference whose default is DS: string source, XLAT, the direct accumulator MOVs (R62,
R63, R154, R174, R300). -/
def State.dataSeg (s : State) : SReg := s.ovr.getD .ds

/-- Where an operand r/m is: a register, or an offset in a segment. It is worked out once, from the registers at
the start of the instruction (R117). -/
inductive Loc where
  | reg (n : RegNum)
  | mem (sr : SReg) (seg off : Word)
  deriving DecidableEq, Repr

/-- The place of a memory operand. -/
def State.memLoc (s : State) (m : MemOp) : Loc := .mem (s.segOf m) (s.sreg (s.segOf m)) (s.ea m)

/-- The place of an operand r/m (R111). -/
def State.loc (s : State) : RM → Loc
  | .reg n => .reg n
  | .mem m => s.memLoc m

/-- `rm_read(w)` (R117). -/
def State.readLoc (s : State) (w : Width) : Loc → BitVec w.bits × State
  | .reg n => (s.reg w n, s)
  | .mem sr seg off => s.memRead sr seg off w

/-- `rm_write(w, v)` (R117). -/
def State.writeLoc (s : State) (w : Width) (l : Loc) (v : BitVec w.bits) : State :=
  match l with
  | .reg n => s.setReg w n v
  | .mem sr seg off => s.memWrite sr seg off w v

/-- The value of an immediate of size `w` (R115). -/
def dataValue : (m : Imm) → BitVec m.width.bits
  | .b v => v
  | .w v => v

/-- The operand width of an immediate of 100000sw (R115). -/
def immWidth : ImmSW → Width
  | .b80 _ => .byte
  | .w81 _ => .word
  | .b82 _ => .byte
  | .sx83 _ => .word

/-- The operand of 100000sw: 83H sign-extends its byte to a word (R115). -/
def immValue : (m : ImmSW) → BitVec (immWidth m).bits
  | .b80 v => v
  | .w81 v => v
  | .b82 v => v
  | .sx83 v => sext16 v

end Sys2Proof.Machine
end

