-- ==== Sys2Proof/Machine/Arithmetic.lean ====
section
/-! DEFINITION. Addition, subtraction, comparison, decimal and ASCII adjustment, conversion (41_arithmetic.md R201 to
R224, R243, R246 to R248), and the one way all two-operand instructions run, logic included (R200 f, R260). -/

namespace Sys2Proof.Machine

/-! ## Two operands -/

/-- The flags of an operation; one free bit is drawn where AF is undefined (R40). -/
def State.aluFlags {n : Nat} (s : State) (op : AluOp) (a b : BitVec n) : State :=
  { s with
    flags := op.flags s.flags a b (Config.freeBit s.draws)
    draws := s.draws + if op.leavesAF then 1 else 0 }

/-- Destination `l`, value `b`: read, compute, set the flags, write back where the operation writes (R201, R202). -/
def State.aluLoc (s : State) (op : AluOp) (w : Width) (l : Loc) (b : BitVec w.bits) : State :=
  let a := s.readLoc w l
  let t := a.2.aluFlags op a.1 b
  if op.writes then t.writeLoc w l (op.result a.1 b s.flags.CF) else t

/-- Register/memory with register to either (R201): `d` says which is the destination. -/
def State.aluRmReg (s : State) (op : AluOp) (d : Dir) (w : Width) (rm : RM) (reg : RegNum) : State :=
  match d with
  | .fromReg => s.aluLoc op w (s.loc rm) (s.reg w reg)
  | .toReg =>
    let b := s.readLoc w (s.loc rm)
    b.2.aluLoc op w (.reg reg) b.1

/-- ADD register/memory with register to either (R201). -/
def execAddRmReg (d : Dir) (w : Width) (rm : RM) (reg : RegNum) (s : State) : Result :=
  .next (s.aluRmReg .add d w rm reg)

/-- ADD immediate to register/memory (R202). -/
def execAddRmImm (rm : RM) (imm : ImmSW) (s : State) : Result :=
  .next (s.aluLoc .add (immWidth imm) (s.loc rm) (immValue imm))

/-- ADD immediate to accumulator (R203). -/
def execAddAccImm (imm : Imm) (s : State) : Result :=
  .next (s.aluLoc .add imm.width (.reg .axAl) (dataValue imm))

/-- ADC register/memory with register to either (R204). -/
def execAdcRmReg (d : Dir) (w : Width) (rm : RM) (reg : RegNum) (s : State) : Result :=
  .next (s.aluRmReg .adc d w rm reg)

/-- ADC immediate to register/memory (R205). -/
def execAdcRmImm (rm : RM) (imm : ImmSW) (s : State) : Result :=
  .next (s.aluLoc .adc (immWidth imm) (s.loc rm) (immValue imm))

/-- ADC immediate to accumulator (R206). -/
def execAdcAccImm (imm : Imm) (s : State) : Result :=
  .next (s.aluLoc .adc imm.width (.reg .axAl) (dataValue imm))

/-- SUB register/memory and register to either (R211). -/
def execSubRmReg (d : Dir) (w : Width) (rm : RM) (reg : RegNum) (s : State) : Result :=
  .next (s.aluRmReg .sub d w rm reg)

/-- SUB immediate from register/memory (R212). -/
def execSubRmImm (rm : RM) (imm : ImmSW) (s : State) : Result :=
  .next (s.aluLoc .sub (immWidth imm) (s.loc rm) (immValue imm))

/-- SUB immediate from accumulator (R213). -/
def execSubAccImm (imm : Imm) (s : State) : Result :=
  .next (s.aluLoc .sub imm.width (.reg .axAl) (dataValue imm))

/-- SBB register/memory and register to either (R214). -/
def execSbbRmReg (d : Dir) (w : Width) (rm : RM) (reg : RegNum) (s : State) : Result :=
  .next (s.aluRmReg .sbb d w rm reg)

/-- SBB immediate from register/memory (R215). -/
def execSbbRmImm (rm : RM) (imm : ImmSW) (s : State) : Result :=
  .next (s.aluLoc .sbb (immWidth imm) (s.loc rm) (immValue imm))

/-- SBB immediate from accumulator (R216). -/
def execSbbAccImm (imm : Imm) (s : State) : Result :=
  .next (s.aluLoc .sbb imm.width (.reg .axAl) (dataValue imm))

/-- CMP register/memory and register (R220). -/
def execCmpRmReg (d : Dir) (w : Width) (rm : RM) (reg : RegNum) (s : State) : Result :=
  .next (s.aluRmReg .cmp d w rm reg)

/-- CMP immediate with register/memory (R221). -/
def execCmpRmImm (rm : RM) (imm : ImmSW) (s : State) : Result :=
  .next (s.aluLoc .cmp (immWidth imm) (s.loc rm) (immValue imm))

/-- CMP immediate with accumulator (R222). -/
def execCmpAccImm (imm : Imm) (s : State) : Result :=
  .next (s.aluLoc .cmp imm.width (.reg .axAl) (dataValue imm))

/-! ## INC, DEC, NEG -/

/-- The flags of INC: those of `add_n(a, 1, 0)` but CF, which is not written (R207). -/
def incFlags {n : Nat} (f : Flags) (a : BitVec n) : Flags := { f.ofAdd a 1#n false with CF := f.CF }

/-- The flags of DEC: those of `sub_n(a, 1, 0)` but CF, which is not written (R217). -/
def decFlags {n : Nat} (f : Flags) (a : BitVec n) : Flags := { f.ofSub a 1#n false with CF := f.CF }

/-- INC register/memory (R207). -/
def execIncRm (w : Width) (rm : RM) (s : State) : Result :=
  let l := s.loc rm
  let a := s.readLoc w l
  .next ({ a.2 with flags := incFlags s.flags a.1 }.writeLoc w l (a.1 + 1#w.bits))

/-- INC register (R208). -/
def execIncReg (r : Reg16) (s : State) : Result :=
  .next ({ s with flags := incFlags s.flags (s.reg16 r) }.setReg16 r (s.reg16 r + 1#16))

/-- DEC register/memory (R217). -/
def execDecRm (w : Width) (rm : RM) (s : State) : Result :=
  let l := s.loc rm
  let a := s.readLoc w l
  .next ({ a.2 with flags := decFlags s.flags a.1 }.writeLoc w l (a.1 - 1#w.bits))

/-- DEC register (R218). -/
def execDecReg (r : Reg16) (s : State) : Result :=
  .next ({ s with flags := decFlags s.flags (s.reg16 r) }.setReg16 r (s.reg16 r - 1#16))

/-- NEG: `sub_n(0, a, 0)` (R219). -/
def execNegRm (w : Width) (rm : RM) (s : State) : Result :=
  let l := s.loc rm
  let a := s.readLoc w l
  .next ({ a.2 with flags := s.flags.ofSub 0#w.bits a.1 false }.writeLoc w l (-a.1))

/-! ## Decimal and ASCII adjustment -/

/-- The low digit needs adjusting: it is above 9, or AF says so (R209, R210, R223, R224). -/
def lowDigitAdjusts (s : State) : Bool := decide (9 < (lowByte s.AX).toNat % 16) || s.flags.AF

/-- The high digit needs adjusting: AL was above 99H, or CF says so (R210, R224). -/
def highDigitAdjusts (s : State) : Bool := decide (0x99 < (lowByte s.AX).toNat) || s.flags.CF

/-- The flags AAA and AAS leave undefined: OF, SF, ZF and PF (R209, R223). -/
def State.undefAsciiAdjust (s : State) : State := s.undefOF.undefSF.undefZF.undefPF

/-- The flags AAM and AAD leave undefined: OF, AF and CF (R243, R246). -/
def State.undefAsciiScale (s : State) : State := s.undefOF.undefAF.undefCF

/-- AAA (R209). -/
def execAaa (s : State) : Result :=
  let adj := lowDigitAdjusts s
  let al := lowByte s.AX
  let ah := highByte s.AX
  .next
    { s with
      AX := if adj then wordOf ((al + 6#8) &&& 0x0F#8) (ah + 1#8) else wordOf (al &&& 0x0F#8) ah
      flags.AF := adj
      flags.CF := adj }.undefAsciiAdjust

/-- AAS (R223). -/
def execAas (s : State) : Result :=
  let adj := lowDigitAdjusts s
  let al := lowByte s.AX
  let ah := highByte s.AX
  .next
    { s with
      AX := if adj then wordOf ((al - 6#8) &&& 0x0F#8) (ah - 1#8) else wordOf (al &&& 0x0F#8) ah
      flags.AF := adj
      flags.CF := adj }.undefAsciiAdjust

/-- AL after DAA (R210). -/
def daaResult (s : State) : Byte :=
  let al := if lowDigitAdjusts s then lowByte s.AX + 6#8 else lowByte s.AX
  if highDigitAdjusts s then al + 0x60#8 else al

/-- AL after DAS (R224). -/
def dasResult (s : State) : Byte :=
  let al := if lowDigitAdjusts s then lowByte s.AX - 6#8 else lowByte s.AX
  if highDigitAdjusts s then al - 0x60#8 else al

/-- AL and the flags of a decimal adjustment with result `al`; OF is undefined (R210, R224). -/
def State.decimalAdjust (s : State) (al : Byte) : State :=
  { s.setReg8 .al al with
    flags := { s.flags.setSzp al with AF := lowDigitAdjusts s, CF := highDigitAdjusts s } }.undefOF

/-- DAA (R210). -/
def execDaa (s : State) : Result := .next (s.decimalAdjust (daaResult s))

/-- DAS (R224). -/
def execDas (s : State) : Result := .next (s.decimalAdjust (dasResult s))

/-- AAM (R243): the divisor is the constant 10. -/
def execAam (s : State) : Result :=
  let al := lowByte s.AX
  .next { s with AX := wordOf (al % 10#8) (al / 10#8), flags := s.flags.setSzp (al % 10#8) }.undefAsciiScale

/-- AAD (R246). -/
def execAad (s : State) : Result :=
  let al := highByte s.AX * 10#8 + lowByte s.AX
  .next { s with AX := wordOf al 0#8, flags := s.flags.setSzp al }.undefAsciiScale

/-! ## CBW and CWD -/

/-- CBW (R247). -/
def execCbw (s : State) : Result := .next { s with AX := sext16 (lowByte s.AX) }

/-- CWD (R248). -/
def execCwd (s : State) : Result := .next { s with DX := if s.AX.msb then 0xFFFF#16 else 0x0000#16 }

end Sys2Proof.Machine
end

