-- ==== Sys2Proof/Machine/DataTransfer.lean ====
section
/-! DEFINITION. The data transfer instructions (40_data_transfer.md R151 to R181). None of them writes a flag but SAHF
and POPF (R150). -/

namespace Sys2Proof.Machine

/-! ## MOV -/

/-- MOV register/memory to/from register (R151). -/
def execMovRmReg (d : Dir) (w : Width) (rm : RM) (reg : RegNum) (s : State) : Result :=
  let l := s.loc rm
  .next <|
    match d with
    | .fromReg => s.writeLoc w l (s.reg w reg)
    | .toReg => (s.readLoc w l).2.setReg w reg (s.readLoc w l).1

/-- MOV immediate to register/memory (R152). -/
def execMovRmImm (rm : RM) (imm : Imm) (s : State) : Result :=
  .next (s.writeLoc imm.width (s.loc rm) (dataValue imm))

/-- MOV immediate to register (R153). -/
def execMovRegImm (reg : RegNum) (imm : Imm) (s : State) : Result :=
  .next (s.setReg imm.width reg (dataValue imm))

/-- MOV memory to accumulator (R154). -/
def execMovAccMem (w : Width) (addr : Word) (s : State) : Result :=
  let r := s.memRead s.dataSeg (s.sreg s.dataSeg) addr w
  .next (r.2.setAcc w r.1)

/-- MOV accumulator to memory (R155). -/
def execMovMemAcc (w : Width) (addr : Word) (s : State) : Result :=
  .next (s.memWrite s.dataSeg (s.sreg s.dataSeg) addr w (s.acc w))

/-- MOV register/memory to segment register, which sets the full shadow (R156, R437 a). -/
def execMovSregRm (sr : DataSReg) (rm : RM) (s : State) : Result :=
  let r := s.readLoc .word (s.loc rm)
  .next { r.2.setDataSReg sr r.1 with fullShadow := true }

/-- MOV segment register to register/memory (R157). -/
def execMovRmSreg (rm : RM) (sr : SReg) (s : State) : Result :=
  .next (s.writeLoc .word (s.loc rm) (s.sreg sr))

/-! ## PUSH and POP -/

/-- PUSH register/memory (R158): a memory operand is read before SP changes; a register is read after, so that
FFH with SP pushes what PUSH SP does (R159). -/
def execPushRm (rm : RM) (s : State) : Result :=
  .next <|
    match rm with
    | .reg n => s.pushOf fun t => t.reg16 n.reg16
    | .mem m => (s.readLoc .word (s.memLoc m)).2.push16 (s.readLoc .word (s.memLoc m)).1

/-- PUSH register, read after SP has been decremented (R159, D14). -/
def execPushReg (r : Reg16) (s : State) : Result :=
  .next (s.pushOf fun t => t.reg16 r)

/-- PUSH segment register (R160). -/
def execPushSreg (sr : SReg) (s : State) : Result :=
  .next (s.push16 (s.sreg sr))

/-- POP register/memory (R161). -/
def execPopRm (rm : RM) (s : State) : Result :=
  .next (s.pop16.2.writeLoc .word (s.loc rm) s.pop16.1)

/-- POP register; the register is written last (R162). -/
def execPopReg (r : Reg16) (s : State) : Result :=
  .next (s.pop16.2.setReg16 r s.pop16.1)

/-- POP segment register, which sets the full shadow (R163, R437 a). -/
def execPopSreg (sr : DataSReg) (s : State) : Result :=
  .next { s.pop16.2.setDataSReg sr s.pop16.1 with fullShadow := true }

/-! ## XCHG -/

/-- XCHG register/memory with register: read, then write, of the same place (R164). -/
def execXchgRmReg (w : Width) (rm : RM) (reg : RegNum) (s : State) : Result :=
  let l := s.loc rm
  .next (((s.readLoc w l).2.writeLoc w l (s.reg w reg)).setReg w reg (s.readLoc w l).1)

/-- XCHG register with accumulator (R165). -/
def execXchgAccReg (r : Reg16) (s : State) : Result :=
  .next ((s.setReg16 .ax (s.reg16 r)).setReg16 r s.AX)

/-! ## IN and OUT -/

/-- IN from fixed port (R170). -/
def execInFixed (w : Width) (port : Byte) (s : State) : Result :=
  let r := s.ioRead (zext16 port) w
  .next (r.2.setAcc w r.1)

/-- IN from variable port (R171). -/
def execInVar (w : Width) (s : State) : Result :=
  let r := s.ioRead s.DX w
  .next (r.2.setAcc w r.1)

/-- OUT to fixed port (R172). -/
def execOutFixed (w : Width) (port : Byte) (s : State) : Result :=
  .next (s.ioWrite (zext16 port) w (s.acc w))

/-- OUT to variable port (R173). -/
def execOutVar (w : Width) (s : State) : Result :=
  .next (s.ioWrite s.DX w (s.acc w))

/-! ## XLAT, LEA, LDS, LES -/

/-- XLAT: the byte at BX + AL (R174). -/
def execXlat (s : State) : Result :=
  let r := s.memRead s.dataSeg (s.sreg s.dataSeg) (s.BX + zext16 (s.reg8 .al)) .byte
  .next (r.2.setReg8 .al r.1)

/-- LEA: the offset itself; no segment and no memory access (R175). -/
def execLea (r : Reg16) (m : MemOp) (s : State) : Result :=
  .next (s.setReg16 r (s.ea m))

/-- A far pointer in memory: the offset word at EA, then the segment word at EA + 2 (R176, R334, R339). -/
def State.readPointer (s : State) (m : MemOp) : Word × Word × State :=
  let off := s.memRead (s.segOf m) (s.sreg (s.segOf m)) (s.ea m) .word
  let seg := off.2.memRead (s.segOf m) (s.sreg (s.segOf m)) (s.ea m + 2#16) .word
  (off.1, seg.1, seg.2)

/-- LDS: both words are read before either register is written (R176). -/
def execLds (r : Reg16) (m : MemOp) (s : State) : Result :=
  let p := s.readPointer m
  .next ((p.2.2.setReg16 r p.1).setDataSReg .ds p.2.1)

/-- LES (R177). -/
def execLes (r : Reg16) (m : MemOp) (s : State) : Result :=
  let p := s.readPointer m
  .next ((p.2.2.setReg16 r p.1).setDataSReg .es p.2.1)

/-! ## Flag transfers -/

/-- LAHF (R178). -/
def execLahf (s : State) : Result :=
  .next (s.setReg8 .ah (s.flags.lowImage s.params.flagsX))

/-- SAHF (R179). -/
def execSahf (s : State) : Result :=
  .next { s with flags := s.flags.ofLowImage (s.reg8 .ah) }

/-- PUSHF (R180). -/
def execPushf (s : State) : Result :=
  .next (s.push16 (s.flags.image s.params.flagsX))

/-- POPF: all nine flags, with no delay for IF (R181). -/
def execPopf (s : State) : Result :=
  .next { s.pop16.2 with flags := Flags.ofImage s.pop16.1 }

end Sys2Proof.Machine
end

