-- ==== Sys2Proof/Machine/Control.lean ====
section
/-! DEFINITION. The control transfer instructions (44_control_transfer.md R330 to R393). IP is past the instruction
when a meaning runs (10_state.md R26). -/

namespace Sys2Proof.Machine

/-! ## CALL -/

/-- CALL direct within segment (R331). -/
def execCallNear (disp : Word) (s : State) : Result :=
  .next ((s.push16 s.IP).jumpNear (s.IP + disp))

/-- CALL indirect within segment: the target is read before the push (R332). -/
def execCallRm (rm : RM) (s : State) : Result :=
  let t := s.readLoc .word (s.loc rm)
  .next ((t.2.push16 s.IP).jumpNear t.1)

/-- CALL direct intersegment: CS is pushed first (R333). -/
def execCallFar (off seg : Word) (s : State) : Result :=
  .next (((s.push16 s.CS).push16 s.IP).jumpFar seg off)

/-- CALL indirect intersegment: both words are read before anything is pushed (R334). -/
def execCallMemFar (m : MemOp) (s : State) : Result :=
  let p := s.readPointer m
  .next (((p.2.2.push16 s.CS).push16 s.IP).jumpFar p.2.1 p.1)

/-! ## JMP -/

/-- JMP direct within segment (R335). -/
def execJmpNear (disp : Word) (s : State) : Result := .next (s.jumpNear (s.IP + disp))

/-- JMP direct within segment, short (R336). -/
def execJmpShort (disp : Byte) (s : State) : Result := .next (s.jumpNear (s.IP + sext16 disp))

/-- JMP indirect within segment (R337). -/
def execJmpRm (rm : RM) (s : State) : Result :=
  let t := s.readLoc .word (s.loc rm)
  .next (t.2.jumpNear t.1)

/-- JMP direct intersegment (R338). -/
def execJmpFar (off seg : Word) (s : State) : Result := .next (s.jumpFar seg off)

/-- JMP indirect intersegment (R339). -/
def execJmpMemFar (m : MemOp) (s : State) : Result :=
  let p := s.readPointer m
  .next (p.2.2.jumpFar p.2.1 p.1)

/-! ## RET -/

/-- RET within segment (R340). -/
def execRet (s : State) : Result := .next (s.pop16.2.jumpNear s.pop16.1)

/-- RET within segment adding immediate to SP (R341). -/
def execRetImm (n : Word) (s : State) : Result :=
  let t := s.pop16
  .next { t.2.jumpNear t.1 with SP := t.2.SP + n }

/-- The pops of an intersegment return: IP, then CS (R342). -/
def State.popFar (s : State) : State :=
  let ip := s.pop16
  let cs := ip.2.pop16
  cs.2.jumpFar cs.1 ip.1

/-- RET intersegment (R342). -/
def execRetf (s : State) : Result := .next s.popFar

/-- RET intersegment adding immediate to SP (R343). -/
def execRetfImm (n : Word) (s : State) : Result := .next { s.popFar with SP := s.popFar.SP + n }

/-! ## Conditional jumps -/

/-- The sixteen conditional jumps and the loops: a short jump when the condition holds, else the next instruction
(R350). -/
def State.jumpIf (s : State) (cond : Bool) (disp : Byte) : State :=
  if cond then s.jumpNear (s.IP + sext16 disp) else s

/-- JO, Jump on Overflow (R351). -/
def execJo (disp : Byte) (s : State) : Result := .next (s.jumpIf (s.flags.OF) disp)

/-- JNO, Jump on Not Overflow (R352). -/
def execJno (disp : Byte) (s : State) : Result := .next (s.jumpIf (!s.flags.OF) disp)

/-- JB/JNAE, Jump on Below (R353). -/
def execJb (disp : Byte) (s : State) : Result := .next (s.jumpIf (s.flags.CF) disp)

/-- JNB/JAE, Jump on Not Below (R354). -/
def execJnb (disp : Byte) (s : State) : Result := .next (s.jumpIf (!s.flags.CF) disp)

/-- JE/JZ, Jump on Equal (R355). -/
def execJe (disp : Byte) (s : State) : Result := .next (s.jumpIf (s.flags.ZF) disp)

/-- JNE/JNZ, Jump on Not Equal (R356). -/
def execJne (disp : Byte) (s : State) : Result := .next (s.jumpIf (!s.flags.ZF) disp)

/-- JBE/JNA, Jump on Below or Equal (R357). -/
def execJbe (disp : Byte) (s : State) : Result := .next (s.jumpIf (s.flags.CF || s.flags.ZF) disp)

/-- JNBE/JA, Jump on Not Below or Equal (R358). -/
def execJnbe (disp : Byte) (s : State) : Result := .next (s.jumpIf (!s.flags.CF && !s.flags.ZF) disp)

/-- JS, Jump on Sign (R359). -/
def execJs (disp : Byte) (s : State) : Result := .next (s.jumpIf (s.flags.SF) disp)

/-- JNS, Jump on Not Sign (R360). -/
def execJns (disp : Byte) (s : State) : Result := .next (s.jumpIf (!s.flags.SF) disp)

/-- JP/JPE, Jump on Parity Even (R361). -/
def execJp (disp : Byte) (s : State) : Result := .next (s.jumpIf (s.flags.PF) disp)

/-- JNP/JPO, Jump on Parity Odd (R362). -/
def execJnp (disp : Byte) (s : State) : Result := .next (s.jumpIf (!s.flags.PF) disp)

/-- JL/JNGE, Jump on Less (R363). -/
def execJl (disp : Byte) (s : State) : Result := .next (s.jumpIf (s.flags.SF != s.flags.OF) disp)

/-- JNL/JGE, Jump on Not Less (R364). -/
def execJnl (disp : Byte) (s : State) : Result := .next (s.jumpIf (s.flags.SF == s.flags.OF) disp)

/-- JLE/JNG, Jump on Less or Equal (R365). -/
def execJle (disp : Byte) (s : State) : Result := .next (s.jumpIf (s.flags.ZF || s.flags.SF != s.flags.OF) disp)

/-- JNLE/JG, Jump on Not Less or Equal (R366). -/
def execJnle (disp : Byte) (s : State) : Result := .next (s.jumpIf (!s.flags.ZF && s.flags.SF == s.flags.OF) disp)

/-! ## Loops -/

/-- CX less 1; no flag is written (R380). -/
def State.countDown (s : State) : State := { s with CX := s.CX - 1#16 }

/-- LOOP (R380). -/
def execLoop (disp : Byte) (s : State) : Result :=
  .next (s.countDown.jumpIf (s.CX - 1#16 != 0#16) disp)

/-- LOOPZ/LOOPE (R381). -/
def execLoopz (disp : Byte) (s : State) : Result :=
  .next (s.countDown.jumpIf (s.CX - 1#16 != 0#16 && s.flags.ZF) disp)

/-- LOOPNZ/LOOPNE (R382). -/
def execLoopnz (disp : Byte) (s : State) : Result :=
  .next (s.countDown.jumpIf (s.CX - 1#16 != 0#16 && !s.flags.ZF) disp)

/-- JCXZ (R383). -/
def execJcxz (disp : Byte) (s : State) : Result := .next (s.jumpIf (s.CX == 0#16) disp)

/-! ## Software interrupts and return -/

/-- INT, type specified; the saved IP is the next instruction's (R390). -/
def execIntN (t : Byte) (s : State) : Result := .next (s.interrupt t s.IP)

/-- INT, type 3 (R391). -/
def execInt3 (s : State) : Result := .next (s.interrupt 0x03#8 s.IP)

/-- INTO: type 4 when OF is 1, else nothing (R392). -/
def execInto (s : State) : Result := .next (if s.flags.OF then s.interrupt 0x04#8 s.IP else s)

/-- IRET (R393). -/
def execIret (s : State) : Result := .next s.interruptReturn

end Sys2Proof.Machine
end

