-- ==== Sys2Proof/Machine/Logic.lean ====
section
/-! DEFINITION. NOT, AND, TEST, OR and XOR (42_logic.md R260, R261, R270 to R281). -/

namespace Sys2Proof.Machine

/-- NOT; no flag is written (R261). -/
def execNotRm (w : Width) (rm : RM) (s : State) : Result :=
  let l := s.loc rm
  let a := s.readLoc w l
  .next (a.2.writeLoc w l (~~~a.1))

/-- AND register/memory and register to either (R270). -/
def execAndRmReg (d : Dir) (w : Width) (rm : RM) (reg : RegNum) (s : State) : Result :=
  .next (s.aluRmReg .and d w rm reg)

/-- AND immediate to register/memory (R271). -/
def execAndRmImm (rm : RM) (imm : Imm) (s : State) : Result :=
  .next (s.aluLoc .and imm.width (s.loc rm) (dataValue imm))

/-- AND immediate to accumulator (R272). -/
def execAndAccImm (imm : Imm) (s : State) : Result :=
  .next (s.aluLoc .and imm.width (.reg .axAl) (dataValue imm))

/-- TEST register/memory and register (R273). -/
def execTestRmReg (w : Width) (rm : RM) (reg : RegNum) (s : State) : Result :=
  .next (s.aluLoc .test w (s.loc rm) (s.reg w reg))

/-- TEST immediate data and register/memory (R274). -/
def execTestRmImm (rm : RM) (imm : Imm) (s : State) : Result :=
  .next (s.aluLoc .test imm.width (s.loc rm) (dataValue imm))

/-- TEST immediate data and accumulator (R275). -/
def execTestAccImm (imm : Imm) (s : State) : Result :=
  .next (s.aluLoc .test imm.width (.reg .axAl) (dataValue imm))

/-- OR register/memory and register to either (R276). -/
def execOrRmReg (d : Dir) (w : Width) (rm : RM) (reg : RegNum) (s : State) : Result :=
  .next (s.aluRmReg .or d w rm reg)

/-- OR immediate to register/memory (R277). -/
def execOrRmImm (rm : RM) (imm : Imm) (s : State) : Result :=
  .next (s.aluLoc .or imm.width (s.loc rm) (dataValue imm))

/-- OR immediate to accumulator (R278). -/
def execOrAccImm (imm : Imm) (s : State) : Result :=
  .next (s.aluLoc .or imm.width (.reg .axAl) (dataValue imm))

/-- XOR register/memory and register to either (R279). -/
def execXorRmReg (d : Dir) (w : Width) (rm : RM) (reg : RegNum) (s : State) : Result :=
  .next (s.aluRmReg .xor d w rm reg)

/-- XOR immediate to register/memory (R280). -/
def execXorRmImm (rm : RM) (imm : Imm) (s : State) : Result :=
  .next (s.aluLoc .xor imm.width (s.loc rm) (dataValue imm))

/-- XOR immediate to accumulator (R281). -/
def execXorAccImm (imm : Imm) (s : State) : Result :=
  .next (s.aluLoc .xor imm.width (.reg .axAl) (dataValue imm))

end Sys2Proof.Machine
end

