-- ==== Sys2Proof/Machine/MulDiv.lean ====
section
/-! DEFINITION. Multiplication and division (41_arithmetic.md R241, R242, R244, R245) and the divide error
(60_exceptions.md R442). -/

namespace Sys2Proof.Machine

/-- The flags of MUL and IMUL: CF and OF say whether the upper half counts, SF, ZF, AF and PF are undefined (R241,
R242). -/
def State.productFlags (s : State) (upper : Bool) : State :=
  { s with flags.CF := upper, flags.OF := upper }.undefSF.undefZF.undefAF.undefPF

/-- A product of words into DX:AX. -/
def State.setProduct (s : State) (p : DWord) : State :=
  { s with DX := p.extractLsb' 16 16, AX := p.extractLsb' 0 16 }

/-- MUL (R241). -/
def execMulRm (w : Width) (rm : RM) (s : State) : Result :=
  .next <|
    match w with
    | .byte =>
      let v := s.readLoc .byte (s.loc rm)
      let p : Word := BitVec.ofNat 16 ((lowByte s.AX).toNat * v.1.toNat)
      { v.2 with AX := p }.productFlags (highByte p != 0#8)
    | .word =>
      let v := s.readLoc .word (s.loc rm)
      let p : DWord := BitVec.ofNat 32 (s.AX.toNat * v.1.toNat)
      (v.2.setProduct p).productFlags (p.extractLsb' 16 16 != 0#16)

/-- IMUL (R242). -/
def execImulRm (w : Width) (rm : RM) (s : State) : Result :=
  .next <|
    match w with
    | .byte =>
      let v := s.readLoc .byte (s.loc rm)
      let p : Word := BitVec.ofInt 16 ((lowByte s.AX).toInt * v.1.toInt)
      { v.2 with AX := p }.productFlags (p != sext16 (lowByte p))
    | .word =>
      let v := s.readLoc .word (s.loc rm)
      let p : DWord := BitVec.ofInt 32 (s.AX.toInt * v.1.toInt)
      (v.2.setProduct p).productFlags (p != (p.extractLsb' 0 16).signExtend 32)

/-- The six status flags, all undefined after DIV and IDIV (R244, R245). -/
def State.undefStatus (s : State) : State := s.undefOF.undefSF.undefZF.undefAF.undefPF.undefCF

/-- The divide error (R442): the status flags and AX, and DX after a word division, are left undefined (log 8);
then sequence(0) with the IP of the next instruction (D11). -/
def State.divideError (s : State) (w : Width) : State :=
  let t := s.undefStatus
  let u :=
    match w with
    | .byte => { t with AX := Config.freeWord t.draws, draws := t.draws + 1 }
    | .word => { t with AX := Config.freeWord t.draws, DX := Config.freeWord (t.draws + 1), draws := t.draws + 2 }
  u.interrupt 0x00#8 u.IP

/-- Quotient and remainder of a byte division, in AL and AH. -/
def State.setQuotient8 (s : State) (q r : Byte) : State := { s with AX := wordOf q r }.undefStatus

/-- Quotient and remainder of a word division, in AX and DX. -/
def State.setQuotient16 (s : State) (q r : Word) : State := { s with AX := q, DX := r }.undefStatus

/-- DX:AX. -/
def State.dxax (s : State) : DWord := s.DX ++ s.AX

/-- DIV (R244). -/
def execDivRm (w : Width) (rm : RM) (s : State) : Result :=
  .next <|
    match w with
    | .byte =>
      let v := s.readLoc .byte (s.loc rm)
      let d := v.1.toNat
      let N := s.AX.toNat
      if d = 0 ∨ 0xFF < N / d then v.2.divideError .byte
      else v.2.setQuotient8 (BitVec.ofNat 8 (N / d)) (BitVec.ofNat 8 (N % d))
    | .word =>
      let v := s.readLoc .word (s.loc rm)
      let d := v.1.toNat
      let N := s.dxax.toNat
      if d = 0 ∨ 0xFFFF < N / d then v.2.divideError .word
      else v.2.setQuotient16 (BitVec.ofNat 16 (N / d)) (BitVec.ofNat 16 (N % d))

/-- The most negative quotient IDIV accepts for a positive limit `hi` (R245, D12). -/
def idivLow (p : Params) (hi : Int) : Int := if p.idivMinFaults then -hi else -hi - 1

/-- IDIV (R245): the quotient is rounded toward zero and the remainder has the sign of the dividend. -/
def execIdivRm (w : Width) (rm : RM) (s : State) : Result :=
  .next <|
    match w with
    | .byte =>
      let v := s.readLoc .byte (s.loc rm)
      let d := v.1.toInt
      let N := s.AX.toInt
      if d = 0 ∨ 127 < N.tdiv d ∨ N.tdiv d < idivLow s.params 127 then v.2.divideError .byte
      else v.2.setQuotient8 (BitVec.ofInt 8 (N.tdiv d)) (BitVec.ofInt 8 (N.tmod d))
    | .word =>
      let v := s.readLoc .word (s.loc rm)
      let d := v.1.toInt
      let N := s.dxax.toInt
      if d = 0 ∨ 32767 < N.tdiv d ∨ N.tdiv d < idivLow s.params 32767 then v.2.divideError .word
      else v.2.setQuotient16 (BitVec.ofInt 16 (N.tdiv d)) (BitVec.ofInt 16 (N.tmod d))

end Sys2Proof.Machine
end

