-- ==== Sys2Proof/Machine/Processor.lean ====
section
/-! DEFINITION. Processor control and the prefixes (45_processor_control.md R400 to R412). A prefix sets its effect
for the instruction that follows (30_encoding.md R101, log 5). -/

namespace Sys2Proof.Machine

/-- CLC (R400). -/
def execClc (s : State) : Result := .next { s with flags.CF := false }

/-- CMC (R401). -/
def execCmc (s : State) : Result := .next { s with flags.CF := !s.flags.CF }

/-- STC (R402). -/
def execStc (s : State) : Result := .next { s with flags.CF := true }

/-- CLD (R403). -/
def execCld (s : State) : Result := .next { s with flags.DF := false }

/-- STD (R404). -/
def execStd (s : State) : Result := .next { s with flags.DF := true }

/-- CLI (R405). -/
def execCli (s : State) : Result := .next { s with flags.IF := false }

/-- STI: the INTR-only shadow is set when IF was 0 (R406, R437 c). -/
def execSti (s : State) : Result :=
  .next { s with flags.IF := true, stiShadow := s.stiShadow || !s.flags.IF }

/-- The halt status on the bus: no address and no transfer (R408, R472). -/
def State.emitHalt (s : State) : State := s.logCycle (s.cycle .halt .codeOrNone none none)

/-- HLT: the chip enters the halt state and says so once (R408). -/
def execHlt (s : State) : Result := .next { s.emitHalt with halted := true }

/-- TEST is low: as the environment says, a free bit when it says nothing (R409, log 11). -/
def State.testLow (s : State) : Bool :=
  match s.pins with
  | some p => p.testLow
  | none => Config.freeBit s.draws

/-- WAIT, one examination of TEST: low, the next instruction; high, the WAIT again (R409). -/
def execWait (s : State) : Result :=
  .next
    { s with
      IP := if s.testLow then s.IP else s.IP - 1#16
      waiting := !s.testLow
      draws := s.draws + if s.pins = none then 1 else 0 }

/-- ESC: a memory operand is read and the word discarded; a register operand is nothing (R410, D19). -/
def execEsc (_x1 _x2 : Bits3) (rm : RM) (s : State) : Result :=
  .next
    (match rm with
     | .reg _ => s
     | .mem m => (s.memRead (s.segOf m) (s.sreg (s.segOf m)) (s.ea m) .word).2)

/-- REP: the prefix with its z; of two, the last one wins (R101, R301). -/
def execRep (z : Bool) (s : State) : Result := .next { s with rep := some z }

/-- LOCK: the lock is in force for the next instruction (R411). -/
def execLock (s : State) : Result := .next { s with lock := true }

/-- Segment override; of two, the last one wins (R101, R412). -/
def execSegment (sr : SReg) (s : State) : Result := .next { s with ovr := some sr }

end Sys2Proof.Machine
end

