-- ==== Sys2Proof/Machine/Shift.lean ====
section
/-! DEFINITION. Shifts and rotates (42_logic.md R262 to R269). -/

namespace Sys2Proof.Machine

/-- The count: 1, or the whole of CL, not reduced (R262, D13). -/
def State.count (s : State) : Count → Nat
  | .one => 1
  | .cl => (s.reg8 .cl).toNat

/-- The optional write of a count of 0: the operand is put back as it was read, or not, as a free bit says (R262,
log 17). -/
def State.rewriteLoc (s : State) (w : Width) (l : Loc) (v : BitVec w.bits) : State :=
  match l with
  | .reg _ => s
  | .mem sr seg off =>
    let u := { s with draws := s.draws + 1 }
    let t := if Config.freeBit s.draws then u.memWrite sr seg off w v else u
    { s with
      mem := t.mem
      queue := t.queue
      bus := t.bus
      devIn := t.devIn
      draws := t.draws
      gaps := t.gaps
      requests := t.requests }

/-- The common part of the seven instructions (R262). Two free bits are drawn, for OF and AF, whether or not this
count and operation leave them undefined. -/
def State.shiftRm (s : State) (op : ShiftOp) (v : Count) (w : Width) (rm : RM) : State :=
  let l := s.loc rm
  let x := s.readLoc w l
  let c := s.count v
  if c = 0 then x.2.rewriteLoc w l x.1
  else
    let r := op.times c x.1 s.flags.CF
    { x.2 with
      flags := op.flags s.flags c x.1 r.1 r.2 (Config.freeBit x.2.draws) (Config.freeBit (x.2.draws + 1))
      draws := x.2.draws + 2 }.writeLoc w l r.1

/-- SHL/SAL (R263). -/
def execShl (v : Count) (w : Width) (rm : RM) (s : State) : Result := .next (s.shiftRm .shl v w rm)

/-- SHR (R264). -/
def execShr (v : Count) (w : Width) (rm : RM) (s : State) : Result := .next (s.shiftRm .shr v w rm)

/-- SAR (R265). -/
def execSar (v : Count) (w : Width) (rm : RM) (s : State) : Result := .next (s.shiftRm .sar v w rm)

/-- ROL (R266). -/
def execRol (v : Count) (w : Width) (rm : RM) (s : State) : Result := .next (s.shiftRm .rol v w rm)

/-- ROR (R267). -/
def execRor (v : Count) (w : Width) (rm : RM) (s : State) : Result := .next (s.shiftRm .ror v w rm)

/-- RCL (R268). -/
def execRcl (v : Count) (w : Width) (rm : RM) (s : State) : Result := .next (s.shiftRm .rcl v w rm)

/-- RCR (R269). -/
def execRcr (v : Count) (w : Width) (rm : RM) (s : State) : Result := .next (s.shiftRm .rcr v w rm)

end Sys2Proof.Machine
end

