-- ==== Sys2Proof/Machine/Strings.lean ====
section
/-! DEFINITION. The string primitives and the repetition of one (43_string.md R300 to R307). -/

namespace Sys2Proof.Machine

/-- `delta` (R300): the operand size, up when DF is 0, down when it is 1. -/
def State.delta (s : State) (w : Width) : Word :=
  let n : Word :=
    match w with
    | .byte => 1#16
    | .word => 2#16
  if s.flags.DF then -n else n

/-- The source element, at SI in the source segment (R300). -/
def State.readSource (s : State) (w : Width) : BitVec w.bits × State :=
  s.memRead s.dataSeg (s.sreg s.dataSeg) s.SI w

/-- The destination element, at ES:DI, never overridden (R300). -/
def State.readDest (s : State) (w : Width) : BitVec w.bits × State := s.memRead .es s.ES s.DI w

/-- The flags of CMPS and SCAS: those of `sub_n(a, b, 0)` (R304, R305). -/
def State.compareFlags {n : Nat} (s : State) (a b : BitVec n) : State :=
  { s with flags := s.flags.ofSub a b false }

/-- One MOVS (R303). -/
def State.movsOnce (s : State) (w : Width) : State :=
  let v := s.readSource w
  let t := v.2.memWrite .es s.ES s.DI w v.1
  { t with SI := s.SI + s.delta w, DI := s.DI + s.delta w }

/-- One CMPS: source minus destination (R304). -/
def State.cmpsOnce (s : State) (w : Width) : State :=
  let a := s.readSource w
  let b := a.2.readDest w
  { b.2.compareFlags a.1 b.1 with SI := s.SI + s.delta w, DI := s.DI + s.delta w }

/-- One SCAS: accumulator minus destination (R305). -/
def State.scasOnce (s : State) (w : Width) : State :=
  let b := s.readDest w
  { b.2.compareFlags (s.acc w) b.1 with DI := s.DI + s.delta w }

/-- One LODS (R306). -/
def State.lodsOnce (s : State) (w : Width) : State :=
  let v := s.readSource w
  { v.2.setAcc w v.1 with SI := s.SI + s.delta w }

/-- One STOS (R307). -/
def State.stosOnce (s : State) (w : Width) : State :=
  { s.memWrite .es s.ES s.DI w (s.acc w) with DI := s.DI + s.delta w }

/-- One iteration under the prefix in force (R301, R302): without a repeat prefix the primitive runs once and CX is
not touched; with one, nothing happens when CX is 0, else the primitive runs, CX is decremented, and iterations are
left unless CX is 0 or, for a comparing primitive, ZF differs from z. -/
def State.iterate (s : State) (i : Instr) (compares : Bool) (once : State → State) : State :=
  match s.rep with
  | none => { once s with repeating := none }
  | some z =>
    if s.CX = 0#16 then { s with repeating := none }
    else
      let t := once s
      let more := s.CX - 1#16 != 0#16 && !(compares && t.flags.ZF != z)
      { t with CX := s.CX - 1#16, repeating := if more then some i else none }

/-- MOVS (R303). -/
def execMovs (w : Width) (s : State) : Result := .next (s.iterate (.movs w) false fun t => t.movsOnce w)

/-- CMPS (R304). -/
def execCmps (w : Width) (s : State) : Result := .next (s.iterate (.cmps w) true fun t => t.cmpsOnce w)

/-- SCAS (R305). -/
def execScas (w : Width) (s : State) : Result := .next (s.iterate (.scas w) true fun t => t.scasOnce w)

/-- LODS (R306). -/
def execLods (w : Width) (s : State) : Result := .next (s.iterate (.lods w) false fun t => t.lodsOnce w)

/-- STOS (R307). -/
def execStos (w : Width) (s : State) : Result := .next (s.iterate (.stos w) false fun t => t.stosOnce w)

end Sys2Proof.Machine
end

