-- ==== Sys2Proof/Machine/Dispatch.lean ====
section
/-! DEFINITION. Which meaning each instruction has: one arm per constructor of `Instr`, in the order of
spec/opcode_table.json. -/

namespace Sys2Proof.Machine

def exec (i : Instr) (s : State) : Host.Outcome State Fault Refusal :=
  match i with
  | .movRmReg d w rm reg => Sys2Proof.Machine.execMovRmReg d w rm reg s
  | .movRmImm rm imm => Sys2Proof.Machine.execMovRmImm rm imm s
  | .movRegImm reg imm => Sys2Proof.Machine.execMovRegImm reg imm s
  | .movAccMem w addr => Sys2Proof.Machine.execMovAccMem w addr s
  | .movMemAcc w addr => Sys2Proof.Machine.execMovMemAcc w addr s
  | .movSregRm sr rm => Sys2Proof.Machine.execMovSregRm sr rm s
  | .movRmSreg rm sr => Sys2Proof.Machine.execMovRmSreg rm sr s
  | .pushRm rm => Sys2Proof.Machine.execPushRm rm s
  | .pushReg r => Sys2Proof.Machine.execPushReg r s
  | .pushSreg sr => Sys2Proof.Machine.execPushSreg sr s
  | .popRm rm => Sys2Proof.Machine.execPopRm rm s
  | .popReg r => Sys2Proof.Machine.execPopReg r s
  | .popSreg sr => Sys2Proof.Machine.execPopSreg sr s
  | .xchgRmReg w rm reg => Sys2Proof.Machine.execXchgRmReg w rm reg s
  | .xchgAccReg r => Sys2Proof.Machine.execXchgAccReg r s
  | .inFixed w port => Sys2Proof.Machine.execInFixed w port s
  | .inVar w => Sys2Proof.Machine.execInVar w s
  | .outFixed w port => Sys2Proof.Machine.execOutFixed w port s
  | .outVar w => Sys2Proof.Machine.execOutVar w s
  | .xlat => Sys2Proof.Machine.execXlat s
  | .lea r m => Sys2Proof.Machine.execLea r m s
  | .lds r m => Sys2Proof.Machine.execLds r m s
  | .les r m => Sys2Proof.Machine.execLes r m s
  | .lahf => Sys2Proof.Machine.execLahf s
  | .sahf => Sys2Proof.Machine.execSahf s
  | .pushf => Sys2Proof.Machine.execPushf s
  | .popf => Sys2Proof.Machine.execPopf s
  | .addRmReg d w rm reg => Sys2Proof.Machine.execAddRmReg d w rm reg s
  | .addRmImm rm imm => Sys2Proof.Machine.execAddRmImm rm imm s
  | .addAccImm imm => Sys2Proof.Machine.execAddAccImm imm s
  | .adcRmReg d w rm reg => Sys2Proof.Machine.execAdcRmReg d w rm reg s
  | .adcRmImm rm imm => Sys2Proof.Machine.execAdcRmImm rm imm s
  | .adcAccImm imm => Sys2Proof.Machine.execAdcAccImm imm s
  | .incRm w rm => Sys2Proof.Machine.execIncRm w rm s
  | .incReg r => Sys2Proof.Machine.execIncReg r s
  | .aaa => Sys2Proof.Machine.execAaa s
  | .daa => Sys2Proof.Machine.execDaa s
  | .subRmReg d w rm reg => Sys2Proof.Machine.execSubRmReg d w rm reg s
  | .subRmImm rm imm => Sys2Proof.Machine.execSubRmImm rm imm s
  | .subAccImm imm => Sys2Proof.Machine.execSubAccImm imm s
  | .sbbRmReg d w rm reg => Sys2Proof.Machine.execSbbRmReg d w rm reg s
  | .sbbRmImm rm imm => Sys2Proof.Machine.execSbbRmImm rm imm s
  | .sbbAccImm imm => Sys2Proof.Machine.execSbbAccImm imm s
  | .decRm w rm => Sys2Proof.Machine.execDecRm w rm s
  | .decReg r => Sys2Proof.Machine.execDecReg r s
  | .negRm w rm => Sys2Proof.Machine.execNegRm w rm s
  | .cmpRmReg d w rm reg => Sys2Proof.Machine.execCmpRmReg d w rm reg s
  | .cmpRmImm rm imm => Sys2Proof.Machine.execCmpRmImm rm imm s
  | .cmpAccImm imm => Sys2Proof.Machine.execCmpAccImm imm s
  | .aas => Sys2Proof.Machine.execAas s
  | .das => Sys2Proof.Machine.execDas s
  | .mulRm w rm => Sys2Proof.Machine.execMulRm w rm s
  | .imulRm w rm => Sys2Proof.Machine.execImulRm w rm s
  | .aam => Sys2Proof.Machine.execAam s
  | .divRm w rm => Sys2Proof.Machine.execDivRm w rm s
  | .idivRm w rm => Sys2Proof.Machine.execIdivRm w rm s
  | .aad => Sys2Proof.Machine.execAad s
  | .cbw => Sys2Proof.Machine.execCbw s
  | .cwd => Sys2Proof.Machine.execCwd s
  | .notRm w rm => Sys2Proof.Machine.execNotRm w rm s
  | .shl v w rm => Sys2Proof.Machine.execShl v w rm s
  | .shr v w rm => Sys2Proof.Machine.execShr v w rm s
  | .sar v w rm => Sys2Proof.Machine.execSar v w rm s
  | .rol v w rm => Sys2Proof.Machine.execRol v w rm s
  | .ror v w rm => Sys2Proof.Machine.execRor v w rm s
  | .rcl v w rm => Sys2Proof.Machine.execRcl v w rm s
  | .rcr v w rm => Sys2Proof.Machine.execRcr v w rm s
  | .andRmReg d w rm reg => Sys2Proof.Machine.execAndRmReg d w rm reg s
  | .andRmImm rm imm => Sys2Proof.Machine.execAndRmImm rm imm s
  | .andAccImm imm => Sys2Proof.Machine.execAndAccImm imm s
  | .testRmReg w rm reg => Sys2Proof.Machine.execTestRmReg w rm reg s
  | .testRmImm rm imm => Sys2Proof.Machine.execTestRmImm rm imm s
  | .testAccImm imm => Sys2Proof.Machine.execTestAccImm imm s
  | .orRmReg d w rm reg => Sys2Proof.Machine.execOrRmReg d w rm reg s
  | .orRmImm rm imm => Sys2Proof.Machine.execOrRmImm rm imm s
  | .orAccImm imm => Sys2Proof.Machine.execOrAccImm imm s
  | .xorRmReg d w rm reg => Sys2Proof.Machine.execXorRmReg d w rm reg s
  | .xorRmImm rm imm => Sys2Proof.Machine.execXorRmImm rm imm s
  | .xorAccImm imm => Sys2Proof.Machine.execXorAccImm imm s
  | .rep z => Sys2Proof.Machine.execRep z s
  | .movs w => Sys2Proof.Machine.execMovs w s
  | .cmps w => Sys2Proof.Machine.execCmps w s
  | .scas w => Sys2Proof.Machine.execScas w s
  | .lods w => Sys2Proof.Machine.execLods w s
  | .stos w => Sys2Proof.Machine.execStos w s
  | .callNear disp => Sys2Proof.Machine.execCallNear disp s
  | .callRm rm => Sys2Proof.Machine.execCallRm rm s
  | .callFar off seg => Sys2Proof.Machine.execCallFar off seg s
  | .callMemFar m => Sys2Proof.Machine.execCallMemFar m s
  | .jmpNear disp => Sys2Proof.Machine.execJmpNear disp s
  | .jmpShort disp => Sys2Proof.Machine.execJmpShort disp s
  | .jmpRm rm => Sys2Proof.Machine.execJmpRm rm s
  | .jmpFar off seg => Sys2Proof.Machine.execJmpFar off seg s
  | .jmpMemFar m => Sys2Proof.Machine.execJmpMemFar m s
  | .ret => Sys2Proof.Machine.execRet s
  | .retImm n => Sys2Proof.Machine.execRetImm n s
  | .retf => Sys2Proof.Machine.execRetf s
  | .retfImm n => Sys2Proof.Machine.execRetfImm n s
  | .jo disp => Sys2Proof.Machine.execJo disp s
  | .jno disp => Sys2Proof.Machine.execJno disp s
  | .jb disp => Sys2Proof.Machine.execJb disp s
  | .jnb disp => Sys2Proof.Machine.execJnb disp s
  | .je disp => Sys2Proof.Machine.execJe disp s
  | .jne disp => Sys2Proof.Machine.execJne disp s
  | .jbe disp => Sys2Proof.Machine.execJbe disp s
  | .jnbe disp => Sys2Proof.Machine.execJnbe disp s
  | .js disp => Sys2Proof.Machine.execJs disp s
  | .jns disp => Sys2Proof.Machine.execJns disp s
  | .jp disp => Sys2Proof.Machine.execJp disp s
  | .jnp disp => Sys2Proof.Machine.execJnp disp s
  | .jl disp => Sys2Proof.Machine.execJl disp s
  | .jnl disp => Sys2Proof.Machine.execJnl disp s
  | .jle disp => Sys2Proof.Machine.execJle disp s
  | .jnle disp => Sys2Proof.Machine.execJnle disp s
  | .loop disp => Sys2Proof.Machine.execLoop disp s
  | .loopz disp => Sys2Proof.Machine.execLoopz disp s
  | .loopnz disp => Sys2Proof.Machine.execLoopnz disp s
  | .jcxz disp => Sys2Proof.Machine.execJcxz disp s
  | .intN t => Sys2Proof.Machine.execIntN t s
  | .int3 => Sys2Proof.Machine.execInt3 s
  | .into => Sys2Proof.Machine.execInto s
  | .iret => Sys2Proof.Machine.execIret s
  | .clc => Sys2Proof.Machine.execClc s
  | .cmc => Sys2Proof.Machine.execCmc s
  | .stc => Sys2Proof.Machine.execStc s
  | .cld => Sys2Proof.Machine.execCld s
  | .std => Sys2Proof.Machine.execStd s
  | .cli => Sys2Proof.Machine.execCli s
  | .sti => Sys2Proof.Machine.execSti s
  | .hlt => Sys2Proof.Machine.execHlt s
  | .wait => Sys2Proof.Machine.execWait s
  | .esc x1 x2 rm => Sys2Proof.Machine.execEsc x1 x2 rm s
  | .lock => Sys2Proof.Machine.execLock s
  | .segment sr => Sys2Proof.Machine.execSegment sr s

end Sys2Proof.Machine
end

