-- ==== Sys2Proof/Machine/Sequencer.lean ====
section
/-! DEFINITION. What one step of the chip is (00_scope.md R15): the pins, reset, the bus given away, the recognition
of interrupts and its priorities (60_exceptions.md R436 to R438), the fetch through the instruction queue
(20_memory.md R70, R85), an instruction with its prefixes (30_encoding.md R101) and one iteration of a repetition
(43_string.md R302). -/

namespace Sys2Proof.Machine

/-! ## Which instructions are which -/

/-- The three prefixes (R101). -/
def isPrefixInstr : Instr → Bool
  | .rep _ => true
  | .lock => true
  | .segment _ => true
  | _ => false

/-- The five string primitives (R300). -/
def isStringInstr : Instr → Bool
  | .movs _ => true
  | .cmps _ => true
  | .scas _ => true
  | .lods _ => true
  | .stos _ => true
  | _ => false

/-! ## Fetch -/

/-- The address of the k-th instruction byte from CS:IP; the offset wraps in the segment (R24, R26, D28). -/
def State.codeAddr (s : State) (k : Nat) : PAddr := phys s.CS (s.IP + BitVec.ofNat 16 k)

/-- `Fetch8` (R70): the oldest byte of the queue or, where the queue is empty, one Code Access cycle, before which
another master may have the bus (R475, R476). IP moves past the byte (R26). -/
def State.fetchOne (s : State) : Byte × State :=
  let t := if s.queue.isEmpty then s.arbitrate .free else s
  match t.queue with
  | b :: q => (b, { t with IP := t.IP + 1#16, queue := q })
  | [] =>
    let r := t.readCycle .code .codeOrNone (phys t.CS t.IP)
    (r.1, { r.2 with IP := t.IP + 1#16 })

/-- The next n instruction bytes. -/
def State.fetchBytes : Nat → State → List Byte
  | 0, _ => []
  | n + 1, s => s.fetchOne.1 :: State.fetchBytes n s.fetchOne.2

/-- The state once n instruction bytes have been consumed. -/
def State.afterFetch : Nat → State → State
  | 0, s => s
  | n + 1, s => State.afterFetch n s.fetchOne.2

/-- The six bytes the longest instruction without its prefixes can need (R100). -/
def State.codeBytes (s : State) : List Byte := State.fetchBytes 6 s

/-- The state once n instruction bytes have been consumed: IP is past them (R26). -/
def State.fetched (s : State) (n : Nat) : State := State.afterFetch n s

/-! ## Recognition -/

/-- The two acknowledge cycles: nothing is read in the first, the type byte in the second; LOCK is low in the first,
in maximum mode (R441). -/
def State.acknowledge (s : State) (t : Byte) : State :=
  let first : BusCycle :=
    { kind := .inta, seg := .codeOrNone, addr := none, data := none, s5 := s.flags.IF,
      lock := s.params.mode == .max }
  let second : BusCycle :=
    { kind := .inta, seg := .codeOrNone, addr := none, data := some t, s5 := s.flags.IF, lock := false }
  (((s.gap .free).logCycle first).gap .acknowledge).logCycle second

/-- Step 2 of R438 where the interrupt pins are as `pins` says: the NMI latch first, else INTR when it is high, IF is 1
and STI's shadow is past (R433, R434, R437 c). The type, and the state with the request taken up; a LOCK prefix in force
ends with it (log 24). -/
def State.externalAt (s : State) (pins : Option InterruptPins) : Option (Byte × State) :=
  if s.nmiLatch then some (0x02#8, { s with nmiLatch := false, lock := false })
  else
    match pins with
    | some p =>
      if p.intr && s.flags.IF && !s.stiShadow then
        some (p.intaType, { s with lock := false }.acknowledge p.intaType)
      else none
    | none => none

/-- Step 2 of R438 at a boundary, with the pins of this step. -/
def State.external (s : State) : Option (Byte × State) := s.externalAt (s.pins.map PinSample.toInterruptPins)

/-- Step 3 of R438: the single-step trap due (R446). -/
def State.trap (s : State) : Option (Byte × State) :=
  if s.trapDue then some (0x01#8, { s with trapDue := false }) else none

/-- The interrupt recognised at a boundary (R438): after an instruction the external ones come before the trap;
after a hardware sequence the trap is next, then an NMI (log 21). Before the first instruction after RESET there is no
recognition point (R436, R502). -/
def State.recognised (s : State) : Option (Byte × State) :=
  if s.fresh then none
  else if s.afterSeq then s.trap.or s.external else s.external.or s.trap

/-- The sequence a recognised interrupt runs (R440); what was left of a repetition resumes at the saved IP (R302). -/
def State.takeInterrupt (s : State) (t : Byte) : State :=
  { { s with lock := false }.interrupt t s.savedIP with afterSeq := true, fullShadow := false, stiShadow := false }

/-! ## One instruction -/

/-- An instruction begins: TF is what the trap after it will go by (R446). The first one after RESET always executes
(R502), so it begins as if under a full shadow: a repetition has no recognition point before its first iteration. -/
def State.beginInstr (s : State) : State :=
  { s with
    trapDue := s.flags.TF
    fullShadow := s.fullShadow || s.fresh
    afterSeq := false
    fresh := false
    waiting := false }

/-- The end of an instruction: its prefixes are spent, unless it has iterations left (R63, R82, R101). -/
def State.retire (s : State) : State :=
  if s.repeating.isSome then s else { s with ovr := none, rep := none, lock := false }

/-- The instruction, or one iteration of it, runs; the shadow before it ends with it (R437, log 21). A
repetition ends STI's shadow with its first iteration, so INTR is admitted before the second: DESIGN CHOICE, since R406
has INTR wait for the next instruction, R437 and D10 for one boundary, and none names the case (log 27). -/
def State.complete (s : State) (i : Instr) : Result :=
  match exec i { s with fullShadow := false, stiShadow := false } with
  | .next t => .next t.retire
  | .fault r => .fault r
  | .refused r => .refused r

/-- An NMI edge seen at the recognition point inside a step is latched (R433). -/
def State.latchInside (s : State) : State :=
  { s with
    nmiLatch :=
      s.nmiLatch ||
        match s.pins with
        | some p => p.inside.nmi
        | none => false }

/-- The recognition point before the first iteration of a repetition (R301, R302), where the interrupt pins are sampled
anew, after the prefixes (D15): the external interrupts only, and none where a full shadow still covers the instruction
(R437, R513, log 21) or it is the first after RESET (R502, log 14). Under STI's shadow an NMI is taken here (R437 c),
and INTR is not: DESIGN CHOICE (R406, log 27). -/
def State.firstPoint (s : State) (i : Instr) : Option (Byte × State) :=
  if s.fullShadow then none
  else State.externalAt { s.latchInside with repeating := some i } (s.pins.map PinSample.inside)

/-- A fetched instruction: a repeat prefix before anything but a string primitive is refused (D29); a repetition with
CX not 0 may be interrupted before its first iteration (R301), and then no trap is due, since no iteration has run:
DEDUCED from R302 and R446, which do not name the case (log 21). -/
def State.start (s : State) (i : Instr) : Result :=
  match s.rep with
  | none => s.complete i
  | some _ =>
    if isStringInstr i then
      if s.CX = 0#16 then s.complete i
      else
        match s.firstPoint i with
        | some (t, u) => .next { u.takeInterrupt t with trapDue := false }
        | none => s.complete i
    else .refused (.repeatBeforeNonString i)

/-- One instruction including its prefixes (R15, R101): fetch and decode; a prefix sets its effect and the fetch goes
on, with no recognition point between (R437 b). The number bounds the prefixes: see `prefixBound`. -/
def State.runFrom : Nat → State → Result
  | 0, s => .next s
  | n + 1, s =>
    match decode s.codeBytes with
    | .error e => .refused (.undecodable e)
    | .ok (i, rest) =>
      let t := s.fetched (6 - rest.length)
      if isPrefixInstr i then
        match exec i t with
        | .next u => State.runFrom n u
        | .fault r => .fault r
        | .refused r => .refused r
      else t.start i

/-- As many bytes as a code segment has (R24): prefixes beyond it go round a segment that holds nothing else, and the
instruction never comes (log 5). -/
def prefixBound : Nat := 65536

/-- One instruction including its prefixes. -/
def State.runNext (s : State) : Result := State.runFrom prefixBound s

/-- A prefix has been decoded and its instruction has not (R101, R437 b): only in a segment of prefixes alone. -/
def State.midInstruction (s : State) : Bool :=
  (s.ovr.isSome || s.rep.isSome || s.lock) && s.repeating.isNone

/-- WAIT examines TEST again (R409). The WAIT byte has been consumed and is not fetched again: DESIGN CHOICE (log 9). -/
def State.waitAgain (s : State) : Result := { s with IP := s.IP + 1#16 }.beginInstr.complete .wait

/-- A boundary (R438): none inside a prefixed instruction; after a full shadow the next instruction runs and the
trap due is dropped; else a recognised interrupt; else the chip stays halted (R408), examines TEST again (R409), goes
on with a repetition (R302) or runs the next instruction. -/
def State.boundary (s : State) : Result :=
  if s.midInstruction then s.runNext
  else if s.fullShadow then s.beginInstr.runNext
  else
    match s.recognised with
    | some (t, u) => .next (u.takeInterrupt t)
    | none =>
      if s.halted then .next s
      else if s.waiting then s.waitAgain
      else
        match s.repeating with
        | some i => s.complete i
        | none => s.beginInstr.runNext

/-! ## The pins -/

/-- An NMI edge in a sample is seen (R433). One before the second clock after RESET is lost (R502): of an edge in a
sample before the first instruction nothing says when it came, so whether it is seen is free (log 14). -/
def State.edgeSeen (s : State) (p : PinSample) : Bool := p.nmi && (!s.fresh || Config.freeBit s.draws)

/-- The requests the chip's pins take: RQ/GT1 exists in maximum mode only (R471). -/
def State.heard (s : State) (l : List BusRequest) : List BusRequest :=
  l.filter fun r => r.pin == .first || s.params.mode == .max

/-- The requests still recorded at a step: RQ/GT is a pulse and is recorded (R82, R476); HOLD is a level, and is asked
for again or not by the next sample (R475). -/
def State.recorded (s : State) : List BusRequest := if s.params.mode = .max then s.requests else []

/-- The pins of this step: the next sample of the environment; an NMI edge is latched (R433, R479, log 11) and bus
requests are recorded. -/
def State.samplePins (s : State) : State :=
  match s.env with
  | [] => { s with pins := none, gaps := [], requests := s.recorded }
  | p :: ps =>
    { s with
      pins := some p
      env := ps
      nmiLatch := s.nmiLatch || s.edgeSeen p
      draws := s.draws + if s.fresh then 1 else 0
      gaps := p.gaps.map s.heard
      requests := s.recorded ++ s.heard p.requests }

/-- RESET is high (R500). -/
def State.resetHigh (s : State) : Bool :=
  match s.pins with
  | some p => p.reset
  | none => false

/-- RESET (R500): the state of R50; the general registers are free values, memory, the parameters and the
environment are as they were (log 14). -/
def State.afterReset (s : State) : State :=
  { State.reset with
    AX := Config.freeWord s.draws
    CX := Config.freeWord (s.draws + 1)
    DX := Config.freeWord (s.draws + 2)
    BX := Config.freeWord (s.draws + 3)
    SP := Config.freeWord (s.draws + 4)
    BP := Config.freeWord (s.draws + 5)
    SI := Config.freeWord (s.draws + 6)
    DI := Config.freeWord (s.draws + 7)
    mem := s.mem
    params := s.params
    pins := s.pins
    env := s.env
    portIn := s.portIn
    devIn := s.devIn
    bus := s.bus
    draws := s.draws + 8 }

/-- The bytes another master writes while it has the bus (R80): only where OTHER_MASTERS is set (D7). -/
def State.masterWrites (s : State) (ws : List (PAddr × Byte)) : State :=
  if s.params.otherMasters then ws.foldl (fun t w => t.storeByte w.1 w.2) s else s

/-- The bus is taken back: a halted chip says so again (R408, R475), another may prefetch. -/
def State.reclaimBus (s : State) : State :=
  if s.busGranted then
    let t := { s with busGranted := false }
    if s.halted then t.emitHalt else t.prefetch
  else s

/-- A step for which the bus is given away: the request that goes first is honored unless LOCK holds it, and the others
stay recorded (R82, R475, R476). In maximum mode the chip has the bus back between two grants, when its queue may
prefetch or its halt status shows again; a HOLD that lasts is one grant. No instruction begins (log 15). READY does not
matter: no cycle is in progress. DESIGN CHOICE: the spec does not say what a low READY does to a request then, nor, of a
request and an INTR in one sample, which goes first (R408): the request does, and that sample's INTR is not looked at
(log 15). -/
def State.grantBus (s : State) : Option State :=
  if s.lockActive then none
  else
    match inOrder s.requests with
    | [] => none
    | r :: rs =>
      let t := if s.params.mode = .max then s.reclaimBus else s
      some { t.masterWrites r.writes with busGranted := true, requests := rs }

/-- The step from `s` to `t` ran a bus cycle in which READY matters: any but the halt status (R477). -/
def State.ranCycles (s t : State) : Bool :=
  (t.bus.take (t.bus.length - s.bus.length)).any fun c => c.kind != .halt

/-- The end of a step from `s`: the queue may prefetch; with READY low the last cycle of a step that ran one, a
prefetch too, is not over (R477). DESIGN CHOICE: the step's effect stands in State all the same (log 15). -/
def State.finish (s t : State) : State :=
  let u := t.prefetch
  if s.ready then u else { u with stalled := s.ranCycles u }

/-- One step: RESET first (R500); a chip whose bus cycle waits for READY waits (R477); a request for the bus is granted
unless LOCK holds it (R82, R475), before any interrupt of the same sample (R408 gives no order: DESIGN CHOICE, log 15);
else the boundary. -/
def State.advance (s : State) : Result :=
  let u := s.samplePins
  if u.resetHigh then .next u.afterReset
  else if u.stalled && !u.ready then .next u
  else
    let v := { u with stalled := false }
    match v.grantBus with
    | some t => .next t
    | none =>
      match v.reclaimBus.boundary with
      | .next t => .next (v.finish t)
      | .fault r => .fault r
      | .refused r => .refused r

/-! ## A program put where the next fetch is -/

/-- Bytes written at CS:IP and up, the offset wrapping in the segment. -/
def Memory.place (m : List Host.Cell) (cs ip : Word) : List Byte → List Host.Cell
  | [] => m
  | b :: bs => Memory.place (Memory.write m (phys cs ip).toNat b) cs (ip + 1#16) bs

/-- The state with the bytes at CS:IP and nothing between it and running them: an empty queue, no prefix, no
repetition, no interrupt pending, no bus request, nothing from the pins. -/
def State.place (s : State) (bs : List Byte) : State :=
  { s with
    mem := Memory.place s.mem s.CS s.IP bs
    queue := []
    nmiLatch := false
    fullShadow := false
    stiShadow := false
    halted := false
    waiting := false
    ovr := none
    rep := none
    lock := false
    repeating := none
    busGranted := false
    stalled := false
    requests := []
    trapDue := false
    afterSeq := false
    pins := none
    env := []
    gaps := [] }

end Sys2Proof.Machine
end

