-- ==== Sys2Proof/Machine/Step.lean ====
section
/-! DEFINITION. The step, and the host's way to put one instruction where the next step fetches. -/

namespace Sys2Proof.Machine

/-- One step of the chip (00_scope.md R15). -/
def step (s : State) : Host.Outcome State Fault Refusal := s.advance

/-- The bytes of a row with what it takes to run them: a repeat prefix runs only before a string primitive (R101,
D29), so MOVSB follows it (log 19). -/
def runnableBytes : List Byte → List Byte
  | b :: c :: rest => if b = 0xF2#8 ∨ b = 0xF3#8 then b :: 0xA4#8 :: rest else b :: c :: rest
  | bs => bs

/-- The instruction of a row of spec/opcode_table.json (`tableBytes`: its bytes, zeros after them) stored at CS:IP,
so that the next step runs it. It stands for loading a program (log 19, 20). -/
def State.withFetchWord (s : State) (nbits w : Nat) : State := s.place (runnableBytes (tableBytes nbits w))

end Sys2Proof.Machine
end

