-- ==== Sys2Proof/Safety.lean ====
section
/-! DEFINITION. The terms the statements use: the invariant, the end of a run, one byte of memory, frames, the exact
integer reading of the flags, and which encodings are unlisted. -/

namespace Sys2Proof.Machine

/-! ## The invariant and the end of a run -/

/-- No prefix is in force. -/
def State.noPrefix (s : State) : Prop := s.ovr = none ∧ s.rep = none ∧ s.lock = false

/-- What every step keeps: memory in canonical form; a repetition in progress is one of a string primitive, under a
repeat prefix, with iterations left (R302); a chip that is halted, waiting or just through a hardware interrupt
sequence does nothing else at the same time, and after such a sequence IF and TF are 0 (R440); a full shadow is
never over a halt, a wait or a repetition (R437); before the first instruction after RESET none of these is there
(R50); the queue holds at most four bytes (R45, R85); a bus cycle that waits for READY is the chip's own (R477). -/
structure State.Inv (s : State) : Prop where
  mem : Memory.wf s.mem
  repetition : ∀ i, s.repeating = some i → isStringInstr i = true ∧ s.rep.isSome = true ∧ s.CX ≠ 0#16
  halt : s.halted = true → s.waiting = false ∧ s.repeating = none ∧ s.noPrefix
  wait : s.waiting = true → s.repeating = none ∧ s.noPrefix
  sequence : s.afterSeq = true →
    s.flags.IF = false ∧ s.flags.TF = false ∧ s.halted = false ∧ s.waiting = false ∧ s.repeating = none ∧ s.noPrefix
  shadow : s.fullShadow = true → s.halted = false ∧ s.waiting = false ∧ s.repeating = none ∧ s.afterSeq = false
  fresh : s.fresh = true →
    s.fullShadow = false ∧ s.halted = false ∧ s.waiting = false ∧ s.repeating = none ∧ s.noPrefix ∧ s.afterSeq = false
      ∧ s.trapDue = false
  queue : s.queue.length ≤ 4
  stalled : s.stalled = true → s.busGranted = false

/-- The end of a run (R16, D23): halted, INTR masked, no NMI and no trap to come. -/
def State.EndOfRun (s : State) : Prop :=
  s.halted = true ∧ s.flags.IF = false ∧ s.nmiLatch = false ∧ s.trapDue = false

/-! ## Memory, one byte at a time -/

/-- The byte memory holds at an address. -/
def State.byteAt (s : State) (a : PAddr) : Byte := Memory.read s.mem a.toNat

/-- The byte a store of `v` puts at an address, none outside the store: low byte first, the second offset modulo
2^16 (R67). -/
def storedByte (seg off : Word) (w : Width) (v : BitVec w.bits) (a : PAddr) : Option Byte :=
  match w, v with
  | .byte, v => if a = phys seg off then some v else none
  | .word, v =>
    if a = phys seg off then some (lowByte v) else if a = phys seg (off + 1#16) then some (highByte v) else none

/-- The byte a sequence of pushes leaves at an address, none outside them (R68). -/
def pushedByte (ss sp : Word) : List Word → PAddr → Option Byte
  | [], _ => none
  | v :: vs, a => (pushedByte ss (sp - 2#16) vs a).or (storedByte ss (sp - 2#16) .word v a)

/-- The bytes other masters may write while an instruction runs, each with its address: what they are recorded to ask
for and will ask for in this step. None without OTHER_MASTERS (D7), and none while LOCK holds them off (R82). -/
def State.masterBytes (s : State) : List (PAddr × Byte) :=
  if s.params.otherMasters && !s.lockActive then (s.requests ++ s.gaps.flatten).flatMap fun r => r.writes else []

/-- No other master writes while instructions run. -/
def State.Undisturbed (s : State) : Prop := s.params.otherMasters = false ∨ (s.requests = [] ∧ s.gaps = [])

/-- A byte an address can hold while an instruction runs: the one it holds, or one another master writes there (R80,
D7). -/
def State.MayHold (s : State) (a : PAddr) (b : Byte) : Prop := b = s.byteAt a ∨ (a, b) ∈ s.masterBytes

/-- Memory after stores: the stored byte where RAM answers, else the byte there was (R79), or what another master wrote
there between the bus cycles (R80). -/
def MemoryAfter (s t : State) (stored : PAddr → Option Byte) : Prop :=
  ∀ a : PAddr,
    t.byteAt a =
        (match stored a with
          | some b => if kindAt s.params.memMap a = .ram then b else s.byteAt a
          | none => s.byteAt a)
      ∨ (a, t.byteAt a) ∈ s.masterBytes

/-- No byte of memory differs but what another master wrote between the bus cycles. -/
def SameMemory (s t : State) : Prop := ∀ a : PAddr, s.MayHold a (t.byteAt a)

/-- No byte of memory differs but those of one store (R67, R79). -/
def Stores (s t : State) (seg off : Word) (w : Width) (v : BitVec w.bits) : Prop :=
  MemoryAfter s t (storedByte seg off w v)

/-- Memory answers at an address: RAM or ROM, not a device and not nothing (R79). -/
def State.Remembers (s : State) (a : PAddr) : Prop :=
  kindAt s.params.memMap a = .ram ∨ kindAt s.params.memMap a = .rom

/-- A read gives this value: every byte of it that memory answers for is one the address can hold (R66, R79, R80). -/
def Reads (s : State) (seg off : Word) (w : Width) (v : BitVec w.bits) : Prop :=
  match w, v with
  | .byte, v => s.Remembers (phys seg off) → s.MayHold (phys seg off) v
  | .word, v =>
    (s.Remembers (phys seg off) → s.MayHold (phys seg off) (lowByte v))
      ∧ (s.Remembers (phys seg (off + 1#16)) → s.MayHold (phys seg (off + 1#16)) (highByte v))

/-- An operand's value: the register, or what a read of its place gives (R117). -/
def OperandIs (s : State) (w : Width) (l : Loc) (v : BitVec w.bits) : Prop :=
  match l with
  | .reg n => v = s.reg w n
  | .mem _ seg off => Reads s seg off w v

/-! ## Frames -/

/-- No general register differs. -/
def SameRegs (s t : State) : Prop := ∀ r : Reg16, t.reg16 r = s.reg16 r

/-- No general register differs but the listed ones. -/
def SameRegsBut (l : List Reg16) (s t : State) : Prop := ∀ r : Reg16, r ∉ l → t.reg16 r = s.reg16 r

/-- DS, ES and SS do not differ. -/
def SameDataSegs (s t : State) : Prop := t.ES = s.ES ∧ t.SS = s.SS ∧ t.DS = s.DS

/-- Nothing of the chip but registers, flags and memory differs: NMI latch, shadows, trap, halt, wait, prefixes,
repetition, bus grant, parameters, and what the environment supplies. What bus cycles use up or leave behind is not
compared: the trace, the queue, the requests for the bus, the answers of devices in memory and the draw counter. -/
def SameChip (s t : State) : Prop :=
  (t.nmiLatch = s.nmiLatch ∧ t.fullShadow = s.fullShadow ∧ t.stiShadow = s.stiShadow ∧ t.trapDue = s.trapDue)
    ∧ (t.afterSeq = s.afterSeq ∧ t.halted = s.halted ∧ t.waiting = s.waiting ∧ t.busGranted = s.busGranted
      ∧ t.stalled = s.stalled)
    ∧ (t.ovr = s.ovr ∧ t.rep = s.rep ∧ t.lock = s.lock ∧ t.repeating = s.repeating ∧ t.fresh = s.fresh)
    ∧ t.params = s.params ∧ t.pins = s.pins ∧ t.env = s.env ∧ t.portIn = s.portIn

/-- Nothing but general registers, flags and memory differs: the segment registers, IP and the rest of the chip are
the same. -/
def SameControl (s t : State) : Prop := SameDataSegs s t ∧ t.CS = s.CS ∧ t.IP = s.IP ∧ SameChip s t

/-- A value written to an operand: the register file is that of `setReg`, or the bytes of the operand hold the
value; no other register and no other byte differs (R117). -/
def WritesLoc (s t : State) (w : Width) (l : Loc) (v : BitVec w.bits) : Prop :=
  match l with
  | .reg n => SameRegs (s.setReg w n v) t ∧ SameMemory s t
  | .mem _ seg off => SameRegs s t ∧ Stores s t seg off w v

/-- Words pushed one after another: SP less 2 for each, the words at SS:SP, nothing else among registers and memory
(R68). -/
def Pushes (s t : State) (vs : List Word) : Prop :=
  t.SP = s.SP - BitVec.ofNat 16 (2 * vs.length) ∧ SameRegsBut [.sp] s t ∧ MemoryAfter s t (pushedByte s.SS s.SP vs)

/-- Control is at CS:IP with an empty queue; the data segments and the rest of the chip are the same (R330, R85). -/
def GoesTo (s t : State) (cs ip : Word) : Prop :=
  t.CS = cs ∧ t.IP = ip ∧ t.queue = [] ∧ SameDataSegs s t ∧ SameChip s t

/-- No push of three words from here stores into the interrupt pointer of a type (D31). -/
def PointerApart (s : State) (ty : Byte) : Prop :=
  ∀ j : Nat, j < 4 → pushedByte s.SS s.SP [0#16, 0#16, 0#16] (vectorAddr ty j) = none

/-- The interrupt sequence for a type with a saved IP (R440): FLAGS, CS and the saved IP are pushed, IF and TF are
cleared and no other flag, CS:IP come from the pointer at 4 * type (unless the pushes store into it), halt, wait,
prefixes and repetition end, the queue is empty, and no other register, segment register or byte differs. -/
def InterruptTaken (s t : State) (ty : Byte) (saved : Word) : Prop :=
  Pushes s t [s.flags.image s.params.flagsX, s.CS, saved]
    ∧ t.flags = { s.flags with IF := false, TF := false }
    ∧ (PointerApart s ty →
        Reads s 0x0000#16 (BitVec.ofNat 16 (4 * ty.toNat)) .word t.IP
          ∧ Reads s 0x0000#16 (BitVec.ofNat 16 (4 * ty.toNat + 2)) .word t.CS)
    ∧ SameDataSegs s t ∧ t.queue = [] ∧ t.halted = false ∧ t.waiting = false ∧ t.noPrefix ∧ t.repeating = none
    ∧ t.params = s.params ∧ t.pins = s.pins ∧ t.env = s.env ∧ t.portIn = s.portIn ∧ t.busGranted = s.busGranted
    ∧ t.stalled = s.stalled

/-- What a software interrupt leaves besides: the NMI latch, the shadows, the trap due (R435, R438 step 0). -/
def SameRecognition (s t : State) : Prop :=
  t.nmiLatch = s.nmiLatch ∧ t.fullShadow = s.fullShadow ∧ t.stiShadow = s.stiShadow ∧ t.trapDue = s.trapDue
    ∧ t.afterSeq = s.afterSeq ∧ t.fresh = s.fresh

/-! ## The flags, read as exact integers -/

/-- A number fits n bits as two's complement (R200 a). -/
def Fits (n : Nat) (x : Int) : Prop := -(2 ^ (n - 1) : Int) ≤ x ∧ x < (2 ^ (n - 1) : Int)

/-- How many of the low eight bits are 1 (R12 PF_of). -/
def onesInLowByte {n : Nat} (r : BitVec n) : Nat := ((List.range 8).filter fun k => r.getLsbD k).length

/-- SF, ZF and PF are those of a result (R12 set_szp). -/
def SzpOf {n : Nat} (f : Flags) (r : BitVec n) : Prop :=
  (f.SF = true ↔ r.toInt < 0) ∧ (f.ZF = true ↔ r.toNat = 0) ∧ (f.PF = true ↔ onesInLowByte r % 2 = 0)

/-- TF, IF and DF do not differ (R36 to R38). -/
def SameControlFlags (f g : Flags) : Prop := g.TF = f.TF ∧ g.IF = f.IF ∧ g.DF = f.DF

/-- The result and the six status flags of a + b + c in n bits (R12 add_n, R200 a). -/
def AddsTo {n : Nat} (f : Flags) (a b : BitVec n) (c : Nat) (r : BitVec n) : Prop :=
  r.toNat = (a.toNat + b.toNat + c) % 2 ^ n ∧ SzpOf f r
    ∧ (f.CF = true ↔ 2 ^ n ≤ a.toNat + b.toNat + c)
    ∧ (f.AF = true ↔ 16 ≤ a.toNat % 16 + b.toNat % 16 + c)
    ∧ (f.OF = true ↔ ¬ Fits n (a.toInt + b.toInt + c))

/-- The result and the six status flags of a - b - c in n bits (R12 sub_n, R200 a, e). -/
def SubtractsTo {n : Nat} (f : Flags) (a b : BitVec n) (c : Nat) (r : BitVec n) : Prop :=
  (r.toNat : Int) = ((a.toNat : Int) - b.toNat - c) % 2 ^ n ∧ SzpOf f r
    ∧ (f.CF = true ↔ a.toNat < b.toNat + c)
    ∧ (f.AF = true ↔ a.toNat % 16 < b.toNat % 16 + c)
    ∧ (f.OF = true ↔ ¬ Fits n (a.toInt - b.toInt - c))

/-- The flags AND, OR, XOR and TEST leave; AF is not constrained (R260). -/
def LogicFlags {n : Nat} (f : Flags) (r : BitVec n) : Prop := f.CF = false ∧ f.OF = false ∧ SzpOf f r

/-- A two-operand instruction on destination `l`: it reads a, computes r and flags related by `rel`, writes r where
the operation writes, and touches nothing else; TF, IF and DF stay (R117, R200, R260). -/
def AluEffect (s t : State) (w : Width) (l : Loc) (writes : Bool)
    (rel : BitVec w.bits → BitVec w.bits → Flags → Prop) : Prop :=
  ∃ a r, OperandIs s w l a ∧ rel a r t.flags ∧ SameControlFlags s.flags t.flags
    ∧ (if writes then WritesLoc s t w l r else SameRegs s t ∧ SameMemory s t) ∧ SameControl s t

/-- The three forms of a two-operand arithmetic instruction (R201 to R206, R211 to R216, R220 to R222): register/
memory and register with `d` saying which is the destination, immediate with register/memory, immediate with
accumulator. -/
def ArithmeticForms (s : State) (rmReg : Dir → Width → RM → RegNum → Instr) (rmImm : RM → ImmSW → Instr)
    (accImm : Imm → Instr) (writes : Bool) (rel : (n : Nat) → BitVec n → BitVec n → BitVec n → Flags → Prop) : Prop :=
  (∀ w rm reg, ∃ t, exec (rmReg .fromReg w rm reg) s = .next t
      ∧ AluEffect s t w (s.loc rm) writes fun a r f => rel w.bits a (s.reg w reg) r f)
    ∧ (∀ w rm reg, ∃ b t, OperandIs s w (s.loc rm) b ∧ exec (rmReg .toReg w rm reg) s = .next t
      ∧ AluEffect s t w (.reg reg) writes fun a r f => rel w.bits a b r f)
    ∧ (∀ rm imm, ∃ t, exec (rmImm rm imm) s = .next t
      ∧ AluEffect s t (immWidth imm) (s.loc rm) writes fun a r f => rel (immWidth imm).bits a (immValue imm) r f)
    ∧ (∀ imm, ∃ t, exec (accImm imm) s = .next t
      ∧ AluEffect s t imm.width (.reg .axAl) writes fun a r f => rel imm.width.bits a (dataValue imm) r f)

/-- The three forms of AND, OR and XOR (R270 to R272, R276 to R281), whose immediate is never sign-extended. -/
def LogicForms (s : State) (rmReg : Dir → Width → RM → RegNum → Instr) (rmImm : RM → Imm → Instr)
    (accImm : Imm → Instr) (op : (n : Nat) → BitVec n → BitVec n → BitVec n) : Prop :=
  (∀ w rm reg, ∃ t, exec (rmReg .fromReg w rm reg) s = .next t
      ∧ AluEffect s t w (s.loc rm) true fun a r f => r = op w.bits a (s.reg w reg) ∧ LogicFlags f r)
    ∧ (∀ w rm reg, ∃ b t, OperandIs s w (s.loc rm) b ∧ exec (rmReg .toReg w rm reg) s = .next t
      ∧ AluEffect s t w (.reg reg) true fun a r f => r = op w.bits a b ∧ LogicFlags f r)
    ∧ (∀ rm imm, ∃ t, exec (rmImm rm imm) s = .next t
      ∧ AluEffect s t imm.width (s.loc rm) true fun a r f =>
          r = op imm.width.bits a (dataValue imm) ∧ LogicFlags f r)
    ∧ (∀ imm, ∃ t, exec (accImm imm) s = .next t
      ∧ AluEffect s t imm.width (.reg .axAl) true fun a r f =>
          r = op imm.width.bits a (dataValue imm) ∧ LogicFlags f r)

/-- An operand is assigned a value: no flag and nothing else differs. -/
def Assigns (s t : State) (w : Width) (l : Loc) (v : BitVec w.bits) : Prop :=
  WritesLoc s t w l v ∧ t.flags = s.flags ∧ SameControl s t

/-- The registers become those of another state; memory, flags and control do not differ. -/
def SetsRegs (s t u : State) : Prop := SameRegs u t ∧ SameMemory s t ∧ t.flags = s.flags ∧ SameControl s t

/-- One segment register is loaded and the full shadow set; the others, IP and the rest of the chip stay (R156,
R163, R437 a). -/
def LoadsSegment (s t : State) (sr : SReg) (v : Word) : Prop :=
  t.sreg sr = v ∧ (∀ q : SReg, q ≠ sr → t.sreg q = s.sreg q) ∧ t.IP = s.IP ∧ SameChip { s with fullShadow := true } t

/-- The place of a memory operand as a segment value and an offset. -/
def State.segValue (s : State) (m : MemOp) : Word := s.sreg (s.segOf m)

/-- SF, ZF, AF and PF do not differ (R266 to R269). -/
def SameSzap (f g : Flags) : Prop := g.SF = f.SF ∧ g.ZF = f.ZF ∧ g.AF = f.AF ∧ g.PF = f.PF

/-- The divide error (R442): the status flags and the result registers `l` are not constrained; then type 0 with the
next instruction's IP saved. Between, no other master has more to write than before. -/
def DivideError (s t : State) (l : List Reg16) : Prop :=
  ∃ u, SameRegsBut l s u ∧ SameMemory s u ∧ SameControlFlags s.flags u.flags ∧ SameControl s u
    ∧ (∀ x ∈ u.masterBytes, x ∈ s.masterBytes) ∧ InterruptTaken u t 0x00#8 s.IP ∧ SameRecognition s t

/-- The number field of a word register (R21). -/
def regNumber : Reg16 → RegNum
  | .ax => .axAl
  | .cx => .cxCl
  | .dx => .dxDl
  | .bx => .bxBl
  | .sp => .spAh
  | .bp => .bpCh
  | .si => .siDh
  | .di => .diBh

/-! ## Strings -/

/-- What SI and DI change by (R300): the element size, down when DF is 1. -/
def elementStep (s : State) (w : Width) : Word :=
  match w, s.flags.DF with
  | .byte, false => 1#16
  | .word, false => 2#16
  | .byte, true => 0xFFFF#16
  | .word, true => 0xFFFE#16

/-- The flags and registers of one comparison of a string element (R304, R305). -/
def ComparesElement (s t : State) (w : Width) (a b : BitVec w.bits) : Prop :=
  (∃ r, SubtractsTo t.flags a b 0 r) ∧ SameControlFlags s.flags t.flags ∧ SameMemory s t ∧ SameControl s t

/-- The effect of one string primitive (R303 to R307). -/
def PrimitiveEffect (i : Instr) (s t : State) : Prop :=
  match i with
  | .movs w =>
    ∃ v, Reads s (s.sreg s.dataSeg) s.SI w v ∧ Stores s t s.ES s.DI w v
      ∧ SameRegs { s with SI := s.SI + elementStep s w, DI := s.DI + elementStep s w } t ∧ t.flags = s.flags
      ∧ SameControl s t
  | .cmps w =>
    ∃ a b, Reads s (s.sreg s.dataSeg) s.SI w a ∧ Reads s s.ES s.DI w b ∧ ComparesElement s t w a b
      ∧ SameRegs { s with SI := s.SI + elementStep s w, DI := s.DI + elementStep s w } t
  | .scas w =>
    ∃ b, Reads s s.ES s.DI w b ∧ ComparesElement s t w (s.acc w) b
      ∧ SameRegs { s with DI := s.DI + elementStep s w } t
  | .lods w =>
    ∃ v, Reads s (s.sreg s.dataSeg) s.SI w v
      ∧ SetsRegs s t { s.setAcc w v with SI := s.SI + elementStep s w }
  | .stos w =>
    Stores s t s.ES s.DI w (s.acc w) ∧ SameRegs { s with DI := s.DI + elementStep s w } t ∧ t.flags = s.flags
      ∧ SameControl s t
  | _ => False

/-- The primitives that compare (R301). -/
def isCompare : Instr → Prop
  | .cmps _ => True
  | .scas _ => True
  | _ => False

/-- The same instruction run a number of times, each on the state the one before left. -/
def execTimes (i : Instr) : Nat → State → Result
  | 0, s => .next s
  | k + 1, s =>
    match exec i s with
    | .next t => execTimes i k t
    | .fault r => .fault r
    | .refused r => .refused r

/-! ## The I/O space -/

/-- The bus cycles but instruction fetches, newest first: those an instruction asks for (R77). -/
def State.dataCycles (s : State) : List BusCycle := s.bus.filter fun c => c.kind != .code

/-- The cycles of a port access, newest first (R75, R76). -/
def portCycles (s : State) (k : BusKind) (port : Word) (w : Width) (v : BitVec w.bits) : List BusCycle :=
  match w, v with
  | .byte, v => [s.cycle k .codeOrNone (some (port.setWidth 20)) (some v)]
  | .word, v =>
    [s.cycle k .codeOrNone (some ((port + 1#16).setWidth 20)) (some (highByte v)),
     s.cycle k .codeOrNone (some (port.setWidth 20)) (some (lowByte v))]

/-- The devices' next answers, where they give any, are the bytes of the value (R75). -/
def PortAnswers (s : State) (w : Width) (v : BitVec w.bits) : Prop :=
  match w, v with
  | .byte, v => ∀ b, s.portIn[0]? = some b → v = b
  | .word, v => (∀ b, s.portIn[0]? = some b → lowByte v = b) ∧ (∀ b, s.portIn[1]? = some b → highByte v = b)

/-- A value read from a port into the accumulator (R170, R171). -/
def ReadsPort (s t : State) (port : Word) (w : Width) : Prop :=
  ∃ v, PortAnswers s w v ∧ t.dataCycles = portCycles s .ioRead port w v ++ s.dataCycles
    ∧ t.portIn = s.portIn.drop (w.bits / 8)
    ∧ SameRegs (s.setAcc w v) t ∧ SameMemory s t ∧ t.flags = s.flags ∧ SameDataSegs s t ∧ t.CS = s.CS ∧ t.IP = s.IP
    ∧ SameChip { s with portIn := t.portIn } t

/-! ## What the next step will do -/

/-- The state once the pins of this step are sampled, when nothing at the pins holds the chip: no sample, or one with
RESET low, and with READY high where a bus cycle waits for it, and no request for the bus or LOCK active (R82, R475,
R477, R479, R500). A bus that was given away is taken back. -/
def State.Sampled (s u : State) : Prop :=
  ∃ v : State,
    ((s.env = [] ∧ v = { s with pins := none, gaps := [], requests := s.recorded, stalled := false })
      ∨ ∃ p ps, s.env = p :: ps ∧ p.reset = false ∧ (p.ready = true ∨ s.stalled = false)
        ∧ v =
          { s with
            pins := some p
            env := ps
            nmiLatch := s.nmiLatch || s.edgeSeen p
            draws := s.draws + if s.fresh then 1 else 0
            gaps := p.gaps.map s.heard
            requests := s.recorded ++ s.heard p.requests
            stalled := false })
      ∧ (v.requests = [] ∨ v.lockActive = true) ∧ u = v.reclaimBus

/-- INTR is high, IF is 1 and STI's shadow is past (R434, R437 c). -/
def State.IntrAccepted (s : State) : Prop :=
  ∃ p, s.pins = some p ∧ p.intr = true ∧ s.flags.IF = true ∧ s.stiShadow = false

/-- An NMI is latched at the recognition point inside a step, or comes just then (R301, R433). -/
def State.NmiInside (s : State) : Prop := s.nmiLatch = true ∨ ∃ p, s.pins = some p ∧ p.inside.nmi = true

/-- INTR is accepted at the recognition point inside a step: high there, IF 1 and STI's shadow past (R301, R434). -/
def State.IntrInside (s : State) : Prop :=
  ∃ p, s.pins = some p ∧ p.inside.intr = true ∧ s.flags.IF = true ∧ s.stiShadow = false

/-- No interrupt is recognised at this boundary (R438), or there is none because no instruction has begun since RESET
(R436, R502). -/
def State.NothingPending (s : State) : Prop :=
  s.fresh = true ∨ (s.nmiLatch = false ∧ s.trapDue = false ∧ ¬ s.IntrAccepted)

/-- An instruction begins at CS:IP: the chip is not halted and does not wait, no repetition and no prefix is in force,
and nothing is recognised or a full shadow covers the boundary (R437, R438). -/
def State.Begins (s : State) : Prop :=
  s.halted = false ∧ s.waiting = false ∧ s.repeating = none ∧ s.noPrefix ∧ (s.fullShadow = true ∨ s.NothingPending)

/-- What an instruction runs on: the shadow before it is over (R437). -/
def State.unshadowed (s : State) : State := { s with fullShadow := false, stiShadow := false }

/-- The end of a step of `s` whose sampled state is `u` and whose boundary gave `t`: the queue may prefetch (R85), and
with READY low the step ends with a bus cycle in progress if it ran one in which READY matters (R477). -/
def State.ended (s u t : State) : State :=
  if u.ready then t.prefetch
  else
    { t.prefetch with
      stalled := (t.prefetch.bus.take (t.prefetch.bus.length - s.bus.length)).any fun c => c.kind != .halt }

/-- What a step answers for what its boundary answers. -/
def endStep (s u : State) : Result → Result
  | .next t => .next (s.ended u t)
  | .fault r => .fault r
  | .refused r => .refused r

/-- A state with no prefix in force. -/
def State.withoutPrefixes (s : State) : State := { s with ovr := none, rep := none, lock := false }

/-! ## Groups of instructions of one shape -/

/-- The instructions that can run the interrupt sequence themselves (R432). -/
def raisesInterrupt : Instr → Prop
  | .intN _ => True
  | .int3 => True
  | .into => True
  | .divRm _ _ => True
  | .idivRm _ _ => True
  | _ => False

/-- The intersegment transfers (R330). -/
def isFarTransfer : Instr → Prop
  | .callFar _ _ => True
  | .callMemFar _ => True
  | .jmpFar _ _ => True
  | .jmpMemFar _ => True
  | .retf => True
  | .retfImm _ => True
  | .iret => True
  | _ => False

/-- The sixteen conditional jumps with the condition of R350's table. -/
def jumpTable (disp : Byte) (f : Flags) : List (Instr × Prop) :=
  [(.jo disp, f.OF = true), (.jno disp, f.OF = false), (.jb disp, f.CF = true), (.jnb disp, f.CF = false),
   (.je disp, f.ZF = true), (.jne disp, f.ZF = false), (.jbe disp, f.CF = true ∨ f.ZF = true),
   (.jnbe disp, f.CF = false ∧ f.ZF = false), (.js disp, f.SF = true), (.jns disp, f.SF = false),
   (.jp disp, f.PF = true), (.jnp disp, f.PF = false), (.jl disp, f.SF ≠ f.OF), (.jnl disp, f.SF = f.OF),
   (.jle disp, f.ZF = true ∨ f.SF ≠ f.OF), (.jnle disp, f.ZF = false ∧ f.SF = f.OF)]

/-! ## Sample words

One encoding, written out bit by bit from the encodings of 30_encoding.md, for every row of the Instruction Set
Summary (R120, R121), each with the instruction it stands for. -/

/-- Data transfer. -/
def wordsTransfer : List (List Byte × Instr) :=
  [([0b10001001#8, 0b11011000#8], .movRmReg .fromReg .word (.reg .axAl) .bxBl),
    ([0b11000111#8, 0b01000110#8, 0xFE#8, 0x34#8, 0x12#8], .movRmImm (.mem (.based .bp (.d8 0xFE#8))) (.w 0x1234#16)),
    ([0b10110100#8, 0x5A#8], .movRegImm .spAh (.b 0x5A#8)),
    ([0b10100001#8, 0x34#8, 0x12#8], .movAccMem .word 0x1234#16),
    ([0b10100010#8, 0x34#8, 0x12#8], .movMemAcc .byte 0x1234#16),
    ([0b10001110#8, 0b11010000#8], .movSregRm .ss (.reg .axAl)),
    ([0b10001100#8, 0b00001100#8], .movRmSreg (.mem (.based .si .none)) .cs),
    ([0b11111111#8, 0b10110011#8, 0x34#8, 0x12#8], .pushRm (.mem (.based .bpDi (.d16 0x1234#16)))),
    ([0b01010101#8], .pushReg .bp),
    ([0b00001110#8], .pushSreg .cs),
    ([0b10001111#8, 0b00000110#8, 0x34#8, 0x12#8], .popRm (.mem (.direct 0x1234#16))),
    ([0b01011110#8], .popReg .si),
    ([0b00011111#8], .popSreg .ds),
    ([0b10000110#8, 0b11111001#8], .xchgRmReg .byte (.reg .cxCl) .diBh),
    ([0b10010010#8], .xchgAccReg .dx),
    ([0b11100101#8, 0x60#8], .inFixed .word 0x60#8),
    ([0b11101100#8], .inVar .byte),
    ([0b11100110#8, 0x61#8], .outFixed .byte 0x61#8),
    ([0b11101111#8], .outVar .word),
    ([0b11010111#8], .xlat),
    ([0b10001101#8, 0b00001000#8], .lea .cx (.based .bxSi .none)),
    ([0b11000101#8, 0b01110111#8, 0x7F#8], .lds .si (.based .bx (.d8 0x7F#8))),
    ([0b11000100#8, 0b00111101#8], .les .di (.based .di .none)),
    ([0b10011111#8], .lahf),
    ([0b10011110#8], .sahf),
    ([0b10011100#8], .pushf),
    ([0b10011101#8], .popf)]

/-- Addition. -/
def wordsAdd : List (List Byte × Instr) :=
  [([0b00000010#8, 0b11100011#8], .addRmReg .toReg .byte (.reg .bxBl) .spAh),
    ([0b10000011#8, 0b11000010#8, 0xFF#8], .addRmImm (.reg .dxDl) (.sx83 0xFF#8)),
    ([0b00000101#8, 0x34#8, 0x12#8], .addAccImm (.w 0x1234#16)),
    ([0b00010010#8, 0b11100011#8], .adcRmReg .toReg .byte (.reg .bxBl) .spAh),
    ([0b10000011#8, 0b11010010#8, 0xFF#8], .adcRmImm (.reg .dxDl) (.sx83 0xFF#8)),
    ([0b00010101#8, 0x34#8, 0x12#8], .adcAccImm (.w 0x1234#16)),
    ([0b11111110#8, 0b00000111#8], .incRm .byte (.mem (.based .bx .none))),
    ([0b01000111#8], .incReg .di),
    ([0b00110111#8], .aaa),
    ([0b00100111#8], .daa)]

/-- Subtraction. -/
def wordsSubtract : List (List Byte × Instr) :=
  [([0b00101010#8, 0b11100011#8], .subRmReg .toReg .byte (.reg .bxBl) .spAh),
    ([0b10000011#8, 0b11101010#8, 0xFF#8], .subRmImm (.reg .dxDl) (.sx83 0xFF#8)),
    ([0b00101101#8, 0x34#8, 0x12#8], .subAccImm (.w 0x1234#16)),
    ([0b00011010#8, 0b11100011#8], .sbbRmReg .toReg .byte (.reg .bxBl) .spAh),
    ([0b10000011#8, 0b11011010#8, 0xFF#8], .sbbRmImm (.reg .dxDl) (.sx83 0xFF#8)),
    ([0b00011101#8, 0x34#8, 0x12#8], .sbbAccImm (.w 0x1234#16)),
    ([0b11111111#8, 0b11001110#8], .decRm .word (.reg .siDh)),
    ([0b01001001#8], .decReg .cx),
    ([0b11110110#8, 0b11011100#8], .negRm .byte (.reg .spAh)),
    ([0b00111010#8, 0b11100011#8], .cmpRmReg .toReg .byte (.reg .bxBl) .spAh),
    ([0b10000011#8, 0b11111010#8, 0xFF#8], .cmpRmImm (.reg .dxDl) (.sx83 0xFF#8)),
    ([0b00111101#8, 0x34#8, 0x12#8], .cmpAccImm (.w 0x1234#16)),
    ([0b00111111#8], .aas),
    ([0b00101111#8], .das)]

/-- Multiplication and division. -/
def wordsMultiply : List (List Byte × Instr) :=
  [([0b11110111#8, 0b11100001#8], .mulRm .word (.reg .cxCl)),
    ([0b11110110#8, 0b00101001#8], .imulRm .byte (.mem (.based .bxDi .none))),
    ([0b11010100#8, 0b00001010#8], .aam),
    ([0b11110110#8, 0b11110011#8], .divRm .byte (.reg .bxBl)),
    ([0b11110111#8, 0b01111010#8, 0x80#8], .idivRm .word (.mem (.based .bpSi (.d8 0x80#8)))),
    ([0b11010101#8, 0b00001010#8], .aad),
    ([0b10011000#8], .cbw),
    ([0b10011001#8], .cwd)]

/-- Logic, shifts and rotates. -/
def wordsLogic : List (List Byte × Instr) :=
  [([0b11110111#8, 0b11010101#8], .notRm .word (.reg .bpCh)),
    ([0b11010000#8, 0b11100110#8], .shl .one .byte (.reg .siDh)),
    ([0b11010010#8, 0b11101110#8], .shr .cl .byte (.reg .siDh)),
    ([0b11010001#8, 0b11111110#8], .sar .one .word (.reg .siDh)),
    ([0b11010011#8, 0b11000110#8], .rol .cl .word (.reg .siDh)),
    ([0b11010000#8, 0b11001110#8], .ror .one .byte (.reg .siDh)),
    ([0b11010010#8, 0b11010110#8], .rcl .cl .byte (.reg .siDh)),
    ([0b11010001#8, 0b11011110#8], .rcr .one .word (.reg .siDh)),
    ([0b00100001#8, 0b00010110#8, 0x34#8, 0x12#8], .andRmReg .fromReg .word (.mem (.direct 0x1234#16)) .dxDl),
    ([0b10000000#8, 0b11100111#8, 0x7F#8], .andRmImm (.reg .diBh) (.b 0x7F#8)),
    ([0b00100100#8, 0x0F#8], .andAccImm (.b 0x0F#8)),
    ([0b10000100#8, 0b11001000#8], .testRmReg .byte (.reg .axAl) .cxCl),
    ([0b11110111#8, 0b11000011#8, 0x01#8, 0x80#8], .testRmImm (.reg .bxBl) (.w 0x8001#16)),
    ([0b10101001#8, 0x00#8, 0x80#8], .testAccImm (.w 0x8000#16)),
    ([0b00001001#8, 0b00010110#8, 0x34#8, 0x12#8], .orRmReg .fromReg .word (.mem (.direct 0x1234#16)) .dxDl),
    ([0b10000000#8, 0b11001111#8, 0x7F#8], .orRmImm (.reg .diBh) (.b 0x7F#8)),
    ([0b00001100#8, 0x0F#8], .orAccImm (.b 0x0F#8)),
    ([0b00110001#8, 0b00010110#8, 0x34#8, 0x12#8], .xorRmReg .fromReg .word (.mem (.direct 0x1234#16)) .dxDl),
    ([0b10000000#8, 0b11110111#8, 0x7F#8], .xorRmImm (.reg .diBh) (.b 0x7F#8)),
    ([0b00110100#8, 0x0F#8], .xorAccImm (.b 0x0F#8))]

/-- The repeat prefix and the string primitives. -/
def wordsString : List (List Byte × Instr) :=
  [([0b11110010#8], .rep false),
    ([0b10100100#8], .movs .byte),
    ([0b10100111#8], .cmps .word),
    ([0b10101110#8], .scas .byte),
    ([0b10101101#8], .lods .word),
    ([0b10101010#8], .stos .byte)]

/-- Calls, jumps and returns. -/
def wordsTransferOfControl : List (List Byte × Instr) :=
  [([0b11101000#8, 0xFD#8, 0xFF#8], .callNear 0xFFFD#16),
    ([0b11111111#8, 0b11010100#8], .callRm (.reg .spAh)),
    ([0b10011010#8, 0x78#8, 0x56#8, 0x34#8, 0x12#8], .callFar 0x5678#16 0x1234#16),
    ([0b11111111#8, 0b01011111#8, 0x02#8], .callMemFar (.based .bx (.d8 0x02#8))),
    ([0b11101001#8, 0xFC#8, 0x7F#8], .jmpNear 0x7FFC#16),
    ([0b11101011#8, 0x80#8], .jmpShort 0x80#8),
    ([0b11111111#8, 0b11100011#8], .jmpRm (.reg .bxBl)),
    ([0b11101010#8, 0x00#8, 0x00#8, 0xFF#8, 0xFF#8], .jmpFar 0x0000#16 0xFFFF#16),
    ([0b11111111#8, 0b00101110#8, 0x00#8, 0x03#8], .jmpMemFar (.direct 0x0300#16)),
    ([0b11000011#8], .ret),
    ([0b11000010#8, 0x03#8, 0x00#8], .retImm 0x0003#16),
    ([0b11001011#8], .retf),
    ([0b11001010#8, 0x04#8, 0x00#8], .retfImm 0x0004#16)]

/-- Conditional jumps and loops. -/
def wordsConditionalJump : List (List Byte × Instr) :=
  [([0b01110000#8, 0xF0#8], .jo 0xF0#8),
    ([0b01110001#8, 0xF1#8], .jno 0xF1#8),
    ([0b01110010#8, 0xF2#8], .jb 0xF2#8),
    ([0b01110011#8, 0xF3#8], .jnb 0xF3#8),
    ([0b01110100#8, 0xF4#8], .je 0xF4#8),
    ([0b01110101#8, 0xF5#8], .jne 0xF5#8),
    ([0b01110110#8, 0xF6#8], .jbe 0xF6#8),
    ([0b01110111#8, 0xF7#8], .jnbe 0xF7#8),
    ([0b01111000#8, 0xF8#8], .js 0xF8#8),
    ([0b01111001#8, 0xF9#8], .jns 0xF9#8),
    ([0b01111010#8, 0xFA#8], .jp 0xFA#8),
    ([0b01111011#8, 0xFB#8], .jnp 0xFB#8),
    ([0b01111100#8, 0xFC#8], .jl 0xFC#8),
    ([0b01111101#8, 0xFD#8], .jnl 0xFD#8),
    ([0b01111110#8, 0xFE#8], .jle 0xFE#8),
    ([0b01111111#8, 0xFF#8], .jnle 0xFF#8),
    ([0b11100010#8, 0x10#8], .loop 0x10#8),
    ([0b11100001#8, 0x11#8], .loopz 0x11#8),
    ([0b11100000#8, 0x12#8], .loopnz 0x12#8),
    ([0b11100011#8, 0x13#8], .jcxz 0x13#8)]

/-- Interrupts. -/
def wordsInterrupt : List (List Byte × Instr) :=
  [([0b11001101#8, 0x21#8], .intN 0x21#8),
    ([0b11001100#8], .int3),
    ([0b11001110#8], .into),
    ([0b11001111#8], .iret)]

/-- Processor control and the other prefixes. -/
def wordsProcessor : List (List Byte × Instr) :=
  [([0b11111000#8], .clc),
    ([0b11110101#8], .cmc),
    ([0b11111001#8], .stc),
    ([0b11111100#8], .cld),
    ([0b11111101#8], .std),
    ([0b11111010#8], .cli),
    ([0b11111011#8], .sti),
    ([0b11110100#8], .hlt),
    ([0b10011011#8], .wait),
    ([0b11011101#8, 0b00011110#8, 0x00#8, 0x10#8], .esc .b101 .b011 (.mem (.direct 0x1000#16))),
    ([0b11110000#8], .lock),
    ([0b00110110#8], .segment .ss)]

/-- The numbers of the word registers (R21, R114). -/
def wordsReg16 : List (List Byte × Instr) :=
  [([0b01000000#8], .incReg .ax),
    ([0b01000001#8], .incReg .cx),
    ([0b01000010#8], .incReg .dx),
    ([0b01000011#8], .incReg .bx),
    ([0b01000100#8], .incReg .sp),
    ([0b01000101#8], .incReg .bp),
    ([0b01000110#8], .incReg .si),
    ([0b01000111#8], .incReg .di)]

/-- The numbers in the fields reg and r/m (R22, R114). -/
def wordsRegNum : List (List Byte × Instr) :=
  [([0b10001010#8, 0b11000111#8], .movRmReg .toReg .byte (.reg .diBh) .axAl),
    ([0b10001010#8, 0b11001110#8], .movRmReg .toReg .byte (.reg .siDh) .cxCl),
    ([0b10001010#8, 0b11010101#8], .movRmReg .toReg .byte (.reg .bpCh) .dxDl),
    ([0b10001010#8, 0b11011100#8], .movRmReg .toReg .byte (.reg .spAh) .bxBl),
    ([0b10001010#8, 0b11100011#8], .movRmReg .toReg .byte (.reg .bxBl) .spAh),
    ([0b10001010#8, 0b11101010#8], .movRmReg .toReg .byte (.reg .dxDl) .bpCh),
    ([0b10001010#8, 0b11110001#8], .movRmReg .toReg .byte (.reg .cxCl) .siDh),
    ([0b10001010#8, 0b11111000#8], .movRmReg .toReg .byte (.reg .axAl) .diBh)]

/-- The address forms of r/m with mod = 01 (R112). -/
def wordsRM : List (List Byte × Instr) :=
  [([0b10001011#8, 0b01000000#8, 0x12#8], .movRmReg .toReg .word (.mem (.based .bxSi (.d8 0x12#8))) .axAl),
    ([0b10001011#8, 0b01000001#8, 0x12#8], .movRmReg .toReg .word (.mem (.based .bxDi (.d8 0x12#8))) .axAl),
    ([0b10001011#8, 0b01000010#8, 0x12#8], .movRmReg .toReg .word (.mem (.based .bpSi (.d8 0x12#8))) .axAl),
    ([0b10001011#8, 0b01000011#8, 0x12#8], .movRmReg .toReg .word (.mem (.based .bpDi (.d8 0x12#8))) .axAl),
    ([0b10001011#8, 0b01000100#8, 0x12#8], .movRmReg .toReg .word (.mem (.based .si (.d8 0x12#8))) .axAl),
    ([0b10001011#8, 0b01000101#8, 0x12#8], .movRmReg .toReg .word (.mem (.based .di (.d8 0x12#8))) .axAl),
    ([0b10001011#8, 0b01000110#8, 0x12#8], .movRmReg .toReg .word (.mem (.based .bp (.d8 0x12#8))) .axAl),
    ([0b10001011#8, 0b01000111#8, 0x12#8], .movRmReg .toReg .word (.mem (.based .bx (.d8 0x12#8))) .axAl)]

/-- The numbers of the segment registers (R25). -/
def wordsSReg : List (List Byte × Instr) :=
  [([0b00000110#8], .pushSreg .es),
    ([0b00001110#8], .pushSreg .cs),
    ([0b00010110#8], .pushSreg .ss),
    ([0b00011110#8], .pushSreg .ds)]

/-- A displacement of two bytes, a byte sign-extended, a direct address, and XCHG AX, AX, the NOP (R112, R115, R142). -/
def wordsMore : List (List Byte × Instr) :=
  [([0x8B#8, 0x87#8, 0x34#8, 0x12#8], .movRmReg .toReg .word (.mem (.based .bx (.d16 0x1234#16))) .axAl),
    ([0x83#8, 0xC3#8, 0xFF#8], .addRmImm (.reg .bxBl) (.sx83 0xFF#8)),
    ([0xF6#8, 0x26#8, 0x00#8, 0x10#8], .mulRm .byte (.mem (.direct 0x1000#16))),
    ([0xD3#8, 0xE8#8], .shr .cl .word (.reg .axAl)),
    ([0xF3#8], .rep true),
    ([0xA5#8], .movs .word),
    ([0x9A#8, 0x34#8, 0x12#8, 0x00#8, 0xF0#8], .callFar 0x1234#16 0xF000#16),
    ([0x7C#8, 0xFE#8], .jl 0xFE#8),
    ([0xD9#8, 0x06#8, 0x00#8, 0x10#8], .esc .b001 .b000 (.mem (.direct 0x1000#16))),
    ([0x2E#8], .segment .cs),
    ([0x90#8], .xchgAccReg .ax)]

/-- All of them. -/
def sampleWords : List (List Byte × Instr) :=
  wordsTransfer ++ wordsAdd ++ wordsSubtract ++ wordsMultiply ++ wordsLogic ++ wordsString ++
    wordsTransferOfControl ++ wordsConditionalJump ++ wordsInterrupt ++ wordsProcessor ++ wordsReg16 ++
    wordsRegNum ++ wordsRM ++ wordsSReg ++ wordsMore

/-! ## Encodings -/

/-- Bits 5:3 of a second byte, as a number (R121). -/
def extension (second : Byte) : Nat := second.toNat / 8 % 8

/-- The register form, mod = 11 (R111). -/
def registerMod (second : Byte) : Prop := 192 ≤ second.toNat

/-- The encodings the Instruction Set Summary does not list, by their first two bytes (R130 with R131, R132). -/
def UnlistedEncoding (op second : Byte) : Prop :=
  (0x60 ≤ op.toNat ∧ op.toNat ≤ 0x6F)
    ∨ op.toNat = 0xC0 ∨ op.toNat = 0xC1 ∨ op.toNat = 0xC8 ∨ op.toNat = 0xC9
    ∨ op.toNat = 0xD6 ∨ op.toNat = 0xF1 ∨ op.toNat = 0x0F
    ∨ ((op.toNat = 0x82 ∨ op.toNat = 0x83)
        ∧ (extension second = 1 ∨ extension second = 4 ∨ extension second = 6))
    ∨ ((op.toNat = 0x8C ∨ op.toNat = 0x8E) ∧ 4 ≤ extension second)
    ∨ (op.toNat = 0x8E ∧ extension second = 1)
    ∨ (op.toNat = 0x8F ∧ extension second ≠ 0)
    ∨ ((op.toNat = 0xC6 ∨ op.toNat = 0xC7) ∧ extension second ≠ 0)
    ∨ (0xD0 ≤ op.toNat ∧ op.toNat ≤ 0xD3 ∧ extension second = 6)
    ∨ ((op.toNat = 0xD4 ∨ op.toNat = 0xD5) ∧ second.toNat ≠ 0x0A)
    ∨ ((op.toNat = 0xF6 ∨ op.toNat = 0xF7) ∧ extension second = 1)
    ∨ (op.toNat = 0xFE ∧ 2 ≤ extension second)
    ∨ (op.toNat = 0xFF ∧ extension second = 7)
    ∨ ((op.toNat = 0x8D ∨ op.toNat = 0xC4 ∨ op.toNat = 0xC5) ∧ registerMod second)
    ∨ (op.toNat = 0xFF ∧ (extension second = 3 ∨ extension second = 5) ∧ registerMod second)

end Sys2Proof.Machine
end

