-- ==== Sys2Proof/Certificates/Slice0/Obligations.lean ====
section
/-! DEFINITION. The statements for the provers, in terms of Sys2Proof/Safety.lean. OBLIGATIONS.json says of each
which rules it rests on. -/

section

open Sys2Proof Sys2Proof.Machine

/-! ## Encoding -/

/-- Every well-formed instruction decodes to itself, whatever bytes follow (30_encoding.md R100 to R121). -/
def Obligations.DecodeOfEncode : Prop :=
  ∀ i : Instr, i.wf = true → ∀ rest : List Byte, decode (encode i ++ rest) = .ok (i, rest)

/-- Bytes that decode are the encoding of the decoded instruction, which is well-formed: no two encodings share a
term, and no bit of an encoding is dropped (R133, R142). -/
def Obligations.EncodeOfDecode : Prop :=
  ∀ (bs : List Byte) (i : Instr) (rest : List Byte),
    decode bs = .ok (i, rest) → encode i ++ rest = bs ∧ i.wf = true

/-- Given enough bytes, the decoder refuses exactly the encodings of R130, R131 and R132. -/
def Obligations.RefusesExactlyUnlisted : Prop :=
  ∀ (op second : Byte) (rest : List Byte), 4 ≤ rest.length →
    ((∃ e, decode (op :: second :: rest) = .error e) ↔ UnlistedEncoding op second)

/-- Words written out from the spec's encodings decode to the instructions they stand for: one for every row of the
Instruction Set Summary, and one for every number of a register, of a segment register and of an address form (R21,
R22, R25, R112, R114, R120, R121). -/
def Obligations.SampleWordsDecode : Prop :=
  ∀ p ∈ sampleWords, decode p.1 = .ok (p.2, [])

/-! ## The machine -/

/-- At a boundary where nothing is recognised (or a full shadow covers it), and after RESET whatever is pending, a
step is one instruction with its prefixes, the one whose bytes the fetch delivers from CS:IP (R15, R26, R70, R101, R437,
R438, R446): the trap to come goes by TF; the first instruction after RESET begins as if under a full shadow, so that it
executes (R502); IP moves past each byte, and fetching does nothing else to the chip; bytes that do not decode are
refused by name; a prefix acts and the step goes on with what follows; anything else runs with the shadow over, after
which its prefixes are spent unless it has iterations left, and the queue may prefetch. That the first instruction
executes even where it is a repetition is DEDUCED (log 14); that a step goes on through at most 65536 prefixes is the
model's choice (log 5), and so is how the queue is kept (log 9). -/
def Obligations.StepRunsDecoded : Prop :=
  ∀ s u v : State, s.Sampled u → u.Begins →
    v =
      { u with
        trapDue := u.flags.TF, fullShadow := u.fullShadow || u.fresh, afterSeq := false, fresh := false
        waiting := false } →
    (∀ e, decode v.codeBytes = .error e → step s = .refused (.undecodable e))
      ∧ ∀ (i : Instr) (rest : List Byte) (n : Nat), decode v.codeBytes = .ok (i, rest) → n = 6 - rest.length →
        ((v.fetched n).IP = u.IP + BitVec.ofNat 16 n ∧ (v.fetched n).CS = u.CS ∧ SameRegs u (v.fetched n)
            ∧ (v.fetched n).flags = u.flags ∧ SameDataSegs u (v.fetched n) ∧ SameMemory u (v.fetched n)
            ∧ SameChip v (v.fetched n) ∧ ∀ x ∈ (v.fetched n).masterBytes, x ∈ u.masterBytes)
          ∧ ∃ t, if isPrefixInstr i then
              exec i (v.fetched n) = .next t ∧ step s = endStep s u (State.runFrom 65535 t)
            else
              exec i (v.fetched n).unshadowed = .next t
                ∧ step s = .next (s.ended u (if t.repeating = none then t.withoutPrefixes else t))

/-- The instruction after its prefixes, with no recognition point between (R15, R101, R437 b): bytes that do not
decode are refused by name; a further prefix acts and the step goes on; a repeat prefix before anything but a string
primitive is refused (R101, D29); before a string primitive with CX not 0 and no full shadow, where the pins are
sampled anew (R301, R302, D15), an NMI pending or an INTR accepted there is taken first, with the IP of the prefix
just before the string opcode saved and LOCK over (R438, R448), and no trap due, since no iteration has run (R446);
otherwise the iteration runs. A step that finds a prefix in force goes on in the same way. That a step goes on through
at most 65536 prefixes is the model's choice (log 5), and so is where a sample says what the pins show at that point
(log 11); that the point before the first iteration is skipped under a full shadow, takes external interrupts alone
and leaves no trap due is DEDUCED (log 21), and that STI's shadow holds an INTR off there is the model's choice (log
27). -/
def Obligations.PrefixedInstructionRuns : Prop :=
  (∀ s u : State, s.Sampled u → u.repeating = none → ¬ u.noPrefix → step s = endStep s u (State.runFrom 65536 u))
    ∧ ∀ (n : Nat) (s : State), s.repeating = none →
      (∀ e, decode s.codeBytes = .error e → State.runFrom (n + 1) s = .refused (.undecodable e))
        ∧ ∀ (i : Instr) (rest : List Byte) (v : State), decode s.codeBytes = .ok (i, rest) →
          v = s.fetched (6 - rest.length) →
          (isPrefixInstr i = true → ∃ t, exec i v = .next t ∧ State.runFrom (n + 1) s = State.runFrom n t)
            ∧ (isPrefixInstr i = false → s.rep.isSome = true → isStringInstr i = false →
              State.runFrom (n + 1) s = .refused (.repeatBeforeNonString i))
            ∧ (isPrefixInstr i = false →
              (s.rep = none ∨ isStringInstr i = true
                ∧ (s.CX = 0#16 ∨ s.fullShadow = true ∨ (¬ s.NmiInside ∧ ¬ s.IntrInside))) →
              ∃ t, exec i v.unshadowed = .next t
                ∧ State.runFrom (n + 1) s = .next (if t.repeating = none then t.withoutPrefixes else t))
            ∧ (isStringInstr i = true → s.rep.isSome = true → s.CX ≠ 0#16 → s.fullShadow = false →
              (s.NmiInside ∨ s.IntrInside) →
              ∃ ty t, (s.NmiInside → ty = 0x02#8)
                ∧ (¬ s.NmiInside → ∀ p, s.pins = some p → ty = p.inside.intaType)
                ∧ State.runFrom (n + 1) s = .next t ∧ InterruptTaken { v with lock := false } t ty (v.IP - 2#16)
                ∧ v.IP = s.IP + BitVec.ofNat 16 (6 - rest.length)
                ∧ t.nmiLatch = false ∧ t.trapDue = false ∧ t.afterSeq = true ∧ t.fullShadow = false
                ∧ t.stiShadow = false)

/-- An instruction placed at CS:IP, where memory answers, is what the next step runs: the model's own way to load a
program (log 19). -/
def Obligations.StepRunsPlaced : Prop :=
  ∀ (s v : State) (i : Instr) (rest : List Byte), i.wf = true → isPrefixInstr i = false →
    (encode i ++ rest).length = 6 → (∀ k < 6, s.Remembers (s.codeAddr k)) →
    v =
      { s.place (encode i ++ rest) with
        trapDue := s.flags.TF, fullShadow := s.fresh, afterSeq := false, fresh := false, waiting := false } →
    ∃ t, exec i (v.fetched (encode i).length).unshadowed = .next t
      ∧ step (s.place (encode i ++ rest)) = .next (if t.repeating = none then t.withoutPrefixes else t).prefetch

/-- The state after reset (10_state.md R50), apart from the general registers, which the spec leaves unspecified:
execution begins at FFFF0H, INTR is masked, nothing is pending, nothing is in progress. -/
def Obligations.ResetState : Prop :=
  State.reset.CS = 0xFFFF#16 ∧ State.reset.IP = 0x0000#16 ∧ State.reset.codeAddr 0 = 0xFFFF0#20
    ∧ State.reset.DS = 0x0000#16 ∧ State.reset.ES = 0x0000#16 ∧ State.reset.SS = 0x0000#16
    ∧ State.reset.flags = Flags.clear
    ∧ State.reset.flags.image State.reset.params.flagsX = State.reset.params.flagsX
    ∧ State.reset.queue = [] ∧ State.reset.nmiLatch = false
    ∧ State.reset.halted = false ∧ State.reset.waiting = false ∧ State.reset.lock = false
    ∧ State.reset.fullShadow = false ∧ State.reset.stiShadow = false ∧ State.reset.repeating = none
    ∧ State.reset.busGranted = false ∧ State.reset.stalled = false ∧ State.reset.requests = []
    ∧ State.reset.fresh = true

/-- The invariant holds after reset. -/
def Obligations.InvAtReset : Prop := State.reset.Inv

/-- Every step keeps the invariant: memory stays in canonical form, halt, wait, repetition, prefixes, shadow and the end
of an interrupt sequence never mix, and the queue holds at most four bytes (R45, R85, R301, R302, R408, R409, R437,
R440, R477). The canonical form of memory and the field for the end of a sequence are the model's (log 2, 21). -/
def Obligations.StepKeepsInv : Prop :=
  ∀ s t : State, s.Inv → step s = .next t → t.Inv

/-- No step changes a parameter, and no step changes a byte where no RAM answers (R6, R79). That the parameters stand
in State is the model's choice (log 4). -/
def Obligations.StepKeepsParamsAndRom : Prop :=
  ∀ s t : State, step s = .next t →
    t.params = s.params ∧ ∀ a : PAddr, kindAt s.params.memMap a ≠ .ram → t.byteAt a = s.byteAt a

/-- RESET high wins over everything (R500): the state of R50 whatever the chip was doing, with memory, parameters
and the environment as they were. That RESET acts between steps is the model's choice (log 14). -/
def Obligations.ResetPinRestarts : Prop :=
  ∀ (s : State) (p : PinSample) (ps : List PinSample), s.env = p :: ps → p.reset = true →
    ∃ t, step s = .next t ∧ t.CS = 0xFFFF#16 ∧ t.IP = 0x0000#16 ∧ t.DS = 0x0000#16 ∧ t.ES = 0x0000#16
      ∧ t.SS = 0x0000#16 ∧ t.flags = Flags.clear ∧ t.queue = [] ∧ t.nmiLatch = false ∧ t.halted = false
      ∧ t.waiting = false ∧ t.noPrefix ∧ t.repeating = none ∧ t.fullShadow = false ∧ t.stiShadow = false
      ∧ t.trapDue = false ∧ t.fresh = true ∧ t.busGranted = false ∧ t.stalled = false ∧ t.requests = []
      ∧ t.mem = s.mem ∧ t.bus = s.bus ∧ t.params = s.params ∧ t.env = ps ∧ t.portIn = s.portIn ∧ t.devIn = s.devIn

/-- Which instructions can change DF, TF, IF, CS, a data segment register, or the halt state (R25, R36 to R38,
R408, R514): no other instruction does. -/
def Obligations.OnlyTheseChangeControl : Prop :=
  ∀ (i : Instr) (s t : State), exec i s = .next t →
    (t.flags.DF ≠ s.flags.DF → i = .cld ∨ i = .std ∨ i = .popf ∨ i = .iret)
      ∧ (t.flags.TF ≠ s.flags.TF → i = .popf ∨ i = .iret ∨ raisesInterrupt i)
      ∧ (t.flags.IF ≠ s.flags.IF → i = .cli ∨ i = .sti ∨ i = .popf ∨ i = .iret ∨ raisesInterrupt i)
      ∧ (t.CS ≠ s.CS → isFarTransfer i ∨ raisesInterrupt i)
      ∧ (t.SS ≠ s.SS → (∃ rm, i = .movSregRm .ss rm) ∨ i = .popSreg .ss)
      ∧ (t.DS ≠ s.DS → (∃ rm, i = .movSregRm .ds rm) ∨ i = .popSreg .ds ∨ ∃ r m, i = .lds r m)
      ∧ (t.ES ≠ s.ES → (∃ rm, i = .movSregRm .es rm) ∨ i = .popSreg .es ∨ ∃ r m, i = .les r m)
      ∧ (t.halted ≠ s.halted → i = .hlt ∨ raisesInterrupt i)

/-- Every instruction completes on every state: nothing stops the chip (R78, R451). What each completes with, the
statements below say. -/
def Obligations.EveryInstructionCompletes : Prop :=
  ∀ (i : Instr) (s : State), ∃ t, exec i s = .next t

/-! ## Addresses -/

/-- The physical address (R61): segment times 16 plus offset, modulo 2^20. -/
def Obligations.PhysicalAddress : Prop :=
  ∀ seg off : Word, (phys seg off).toNat = (seg.toNat * 16 + off.toNat) % 2 ^ 20

/-- The registers by their numbers (R21, R22, R114, R117): which word register and which half a number names; a byte
register is bits 7:0 (AL, CL, DL, BL) or 15:8 (AH, CH, DH, BH), and writing one leaves the other half alone. The
effective address by mod and r/m (R112, R113), modulo 2^16; SS for the ones that use BP and DS for the others (R62),
unless an override is in force, which names the segment (R63). -/
def Obligations.AddressForms : Prop :=
  ∀ s : State,
    (s.reg .word .axAl = s.AX ∧ s.reg .word .cxCl = s.CX ∧ s.reg .word .dxDl = s.DX ∧ s.reg .word .bxBl = s.BX
        ∧ s.reg .word .spAh = s.SP ∧ s.reg .word .bpCh = s.BP ∧ s.reg .word .siDh = s.SI
        ∧ s.reg .word .diBh = s.DI)
      ∧ (s.reg .byte .axAl = s.AX.extractLsb' 0 8 ∧ s.reg .byte .cxCl = s.CX.extractLsb' 0 8
        ∧ s.reg .byte .dxDl = s.DX.extractLsb' 0 8 ∧ s.reg .byte .bxBl = s.BX.extractLsb' 0 8
        ∧ s.reg .byte .spAh = s.AX.extractLsb' 8 8 ∧ s.reg .byte .bpCh = s.CX.extractLsb' 8 8
        ∧ s.reg .byte .siDh = s.DX.extractLsb' 8 8 ∧ s.reg .byte .diBh = s.BX.extractLsb' 8 8)
      ∧ (∀ v : Word, s.setReg .word .axAl v = { s with AX := v } ∧ s.setReg .word .cxCl v = { s with CX := v }
        ∧ s.setReg .word .dxDl v = { s with DX := v } ∧ s.setReg .word .bxBl v = { s with BX := v }
        ∧ s.setReg .word .spAh v = { s with SP := v } ∧ s.setReg .word .bpCh v = { s with BP := v }
        ∧ s.setReg .word .siDh v = { s with SI := v } ∧ s.setReg .word .diBh v = { s with DI := v })
      ∧ (∀ v : Byte, s.setReg .byte .axAl v = { s with AX := s.AX.extractLsb' 8 8 ++ v }
        ∧ s.setReg .byte .cxCl v = { s with CX := s.CX.extractLsb' 8 8 ++ v }
        ∧ s.setReg .byte .dxDl v = { s with DX := s.DX.extractLsb' 8 8 ++ v }
        ∧ s.setReg .byte .bxBl v = { s with BX := s.BX.extractLsb' 8 8 ++ v }
        ∧ s.setReg .byte .spAh v = { s with AX := v ++ s.AX.extractLsb' 0 8 }
        ∧ s.setReg .byte .bpCh v = { s with CX := v ++ s.CX.extractLsb' 0 8 }
        ∧ s.setReg .byte .siDh v = { s with DX := v ++ s.DX.extractLsb' 0 8 }
        ∧ s.setReg .byte .diBh v = { s with BX := v ++ s.BX.extractLsb' 0 8 })
      ∧ (∀ p ∈ [(Reg16.ax, RegNum.axAl), (.cx, .cxCl), (.dx, .dxDl), (.bx, .bxBl), (.sp, .spAh), (.bp, .bpCh),
          (.si, .siDh), (.di, .diBh)],
        s.reg16 p.1 = s.reg .word p.2 ∧ ∀ v, s.setReg16 p.1 v = s.setReg .word p.2 v)
      ∧ (∀ p ∈ [(Reg8.al, RegNum.axAl), (.cl, .cxCl), (.dl, .dxDl), (.bl, .bxBl), (.ah, .spAh), (.ch, .bpCh),
          (.dh, .siDh), (.bh, .diBh)],
        s.reg8 p.1 = s.reg .byte p.2 ∧ ∀ v, s.setReg8 p.1 v = s.setReg .byte p.2 v)
      ∧ (∀ w, s.acc w = s.reg w .axAl ∧ ∀ v, s.setAcc w v = s.setReg w .axAl v)
      ∧ (∀ (d : Disp) (D : Word), (d = .none → D = 0x0000#16) → (∀ b, d = .d8 b → D = b.signExtend 16) →
        (∀ w, d = .d16 w → D = w) →
        s.ea (.based .bxSi d) = s.BX + s.SI + D ∧ s.ea (.based .bxDi d) = s.BX + s.DI + D
          ∧ s.ea (.based .bpSi d) = s.BP + s.SI + D ∧ s.ea (.based .bpDi d) = s.BP + s.DI + D
          ∧ s.ea (.based .si d) = s.SI + D ∧ s.ea (.based .di d) = s.DI + D ∧ s.ea (.based .bp d) = s.BP + D
          ∧ s.ea (.based .bx d) = s.BX + D)
      ∧ (∀ w, s.ea (.direct w) = w)
      ∧ (s.ovr = none →
        (∀ base d, s.segOf (.based base d) = if base = .bpSi ∨ base = .bpDi ∨ base = .bp then .ss else .ds)
          ∧ (∀ w, s.segOf (.direct w) = .ds) ∧ s.dataSeg = .ds)
      ∧ (∀ sr, s.ovr = some sr → (∀ m, s.segOf m = sr) ∧ s.dataSeg = sr)
      ∧ (∀ n, s.loc (.reg n) = .reg n) ∧ (∀ m, s.loc (.mem m) = .mem (s.segOf m) (s.sreg (s.segOf m)) (s.ea m))
      ∧ (s.sreg .es = s.ES ∧ s.sreg .cs = s.CS ∧ s.sreg .ss = s.SS ∧ s.sreg .ds = s.DS)

/-! ## Data transfer -/

/-- The five general MOVs (R151 to R155): the destination gets the source, and no flag, no other register and no
other byte of memory changes. -/
def Obligations.MovResults : Prop :=
  ∀ s : State,
    (∀ w rm reg, ∃ t, exec (.movRmReg .fromReg w rm reg) s = .next t ∧ Assigns s t w (s.loc rm) (s.reg w reg))
      ∧ (∀ w rm reg, ∃ v t, OperandIs s w (s.loc rm) v ∧ exec (.movRmReg .toReg w rm reg) s = .next t
        ∧ Assigns s t w (.reg reg) v)
      ∧ (∀ rm imm, ∃ t, exec (.movRmImm rm imm) s = .next t ∧ Assigns s t imm.width (s.loc rm) (dataValue imm))
      ∧ (∀ reg imm, ∃ t, exec (.movRegImm reg imm) s = .next t ∧ Assigns s t imm.width (.reg reg) (dataValue imm))
      ∧ (∀ w addr, ∃ v t, Reads s (s.sreg s.dataSeg) addr w v ∧ exec (.movAccMem w addr) s = .next t
        ∧ Assigns s t w (.reg .axAl) v)
      ∧ (∀ w addr, ∃ t, exec (.movMemAcc w addr) s = .next t
        ∧ Assigns s t w (.mem s.dataSeg (s.sreg s.dataSeg) addr) (s.acc w))

/-- MOV to and from a segment register (R156, R157): the load sets the full shadow (R437 a). -/
def Obligations.SegmentMoveResults : Prop :=
  ∀ (s : State) (rm : RM),
    (∀ sr : DataSReg, ∃ v t, OperandIs s .word (s.loc rm) v ∧ exec (.movSregRm sr rm) s = .next t
        ∧ LoadsSegment s t sr.toSReg v ∧ SameRegs s t ∧ SameMemory s t ∧ t.flags = s.flags)
      ∧ (∀ sr : SReg, ∃ t, exec (.movRmSreg rm sr) s = .next t ∧ Assigns s t .word (s.loc rm) (s.sreg sr))

/-- PUSH of a register, of memory, of a segment register and of FLAGS (R158 to R160, R180): SP less 2 and the word
at SS:SP; PUSH SP stores the new SP (D14). -/
def Obligations.PushResults : Prop :=
  ∀ s : State,
    (∀ r, ∃ t, exec (.pushReg r) s = .next t ∧ Pushes s t [if r = .sp then s.SP - 2#16 else s.reg16 r]
        ∧ t.flags = s.flags ∧ SameControl s t)
      ∧ (∀ n : RegNum, ∃ t, exec (.pushRm (.reg n)) s = .next t
        ∧ Pushes s t [if n = .spAh then s.SP - 2#16 else s.reg .word n] ∧ t.flags = s.flags ∧ SameControl s t)
      ∧ (∀ m, ∃ v t, Reads s (s.segValue m) (s.ea m) .word v ∧ exec (.pushRm (.mem m)) s = .next t
        ∧ Pushes s t [v] ∧ t.flags = s.flags ∧ SameControl s t)
      ∧ (∀ sr, ∃ t, exec (.pushSreg sr) s = .next t ∧ Pushes s t [s.sreg sr] ∧ t.flags = s.flags
        ∧ SameControl s t)
      ∧ ∃ t, exec .pushf s = .next t ∧ Pushes s t [s.flags.image s.params.flagsX] ∧ t.flags = s.flags
        ∧ SameControl s t

/-- POP to a register, to memory, to a segment register and to FLAGS (R161 to R163, R181): the word at SS:SP, and SP
plus 2 before the destination is written, so that POP SP keeps the popped word. -/
def Obligations.PopResults : Prop :=
  ∀ s : State,
    (∀ r, ∃ v t, Reads s s.SS s.SP .word v ∧ exec (.popReg r) s = .next t
        ∧ SetsRegs s t ({ s with SP := s.SP + 2#16 }.setReg16 r v))
      ∧ (∀ rm, ∃ v t, Reads s s.SS s.SP .word v ∧ exec (.popRm rm) s = .next t
        ∧ Assigns { s with SP := s.SP + 2#16 } t .word (s.loc rm) v)
      ∧ (∀ sr : DataSReg, ∃ v t, Reads s s.SS s.SP .word v ∧ exec (.popSreg sr) s = .next t
        ∧ LoadsSegment s t sr.toSReg v ∧ SameRegs { s with SP := s.SP + 2#16 } t ∧ SameMemory s t
        ∧ t.flags = s.flags)
      ∧ ∃ v t, Reads s s.SS s.SP .word v ∧ exec .popf s = .next t ∧ t.flags = Flags.ofImage v
        ∧ SameRegs { s with SP := s.SP + 2#16 } t ∧ SameMemory s t ∧ SameControl s t

/-- XCHG (R164, R165): the two operands change places; nothing else changes. -/
def Obligations.XchgResults : Prop :=
  ∀ s : State,
    (∀ w n reg, ∃ t, exec (.xchgRmReg w (.reg n) reg) s = .next t
        ∧ SetsRegs s t ((s.setReg w n (s.reg w reg)).setReg w reg (s.reg w n))
        ∧ t.reg w reg = s.reg w n ∧ t.reg w n = s.reg w reg)
      ∧ (∀ w m reg, ∃ v t, Reads s (s.segValue m) (s.ea m) w v ∧ exec (.xchgRmReg w (.mem m) reg) s = .next t
        ∧ SameRegs (s.setReg w reg v) t ∧ Stores s t (s.segValue m) (s.ea m) w (s.reg w reg) ∧ t.flags = s.flags
        ∧ SameControl s t)
      ∧ (∀ r, ∃ t, exec (.xchgAccReg r) s = .next t ∧ t.AX = s.reg16 r ∧ t.reg16 r = s.AX
        ∧ SameRegsBut [.ax, r] s t ∧ SameMemory s t ∧ t.flags = s.flags ∧ SameControl s t)

/-- IN (R170, R171): the accumulator gets what the devices answer, one Read I/O Port cycle a byte, low byte first, at
the port of the instruction (0 to 255) or of DX (R75). How the environment supplies the answers is the model's choice
(log 12). -/
def Obligations.InResults : Prop :=
  ∀ (s : State) (w : Width),
    (∀ port, ∃ t, exec (.inFixed w port) s = .next t ∧ ReadsPort s t (port.setWidth 16) w)
      ∧ ∃ t, exec (.inVar w) s = .next t ∧ ReadsPort s t s.DX w

/-- OUT (R172, R173): one Write I/O Port cycle with bits 7:0 at the port and, for a word, a second with bits 15:8 at
the next port modulo 2^16 (R76); nothing of the chip changes. Instruction fetches, which may come between, are not
listed. -/
def Obligations.OutResults : Prop :=
  ∀ (s : State) (w : Width),
    (∀ port, ∃ t, exec (.outFixed w port) s = .next t
        ∧ t.dataCycles = portCycles s .ioWrite (port.setWidth 16) w (s.acc w) ++ s.dataCycles ∧ SetsRegs s t s)
      ∧ ∃ t, exec (.outVar w) s = .next t
        ∧ t.dataCycles = portCycles s .ioWrite s.DX w (s.acc w) ++ s.dataCycles ∧ SetsRegs s t s

/-- XLAT, LEA, LDS and LES (R174 to R177): LEA uses the offset and runs no bus cycle; the pointer loads read both
words first, and set no shadow. -/
def Obligations.AddressLoads : Prop :=
  ∀ s : State,
    (∃ v t, Reads s (s.sreg s.dataSeg) (s.BX + (s.reg8 .al).setWidth 16) .byte v ∧ exec .xlat s = .next t
        ∧ SetsRegs s t (s.setReg8 .al v))
      ∧ (∀ r m, ∃ t, exec (.lea r m) s = .next t ∧ SetsRegs s t (s.setReg16 r (s.ea m)) ∧ t.bus = s.bus)
      ∧ (∀ r m, ∃ off seg t, Reads s (s.segValue m) (s.ea m) .word off
        ∧ Reads s (s.segValue m) (s.ea m + 2#16) .word seg ∧ exec (.lds r m) s = .next t
        ∧ SameRegs (s.setReg16 r off) t ∧ t.DS = seg ∧ t.ES = s.ES ∧ t.SS = s.SS ∧ t.CS = s.CS ∧ t.IP = s.IP
        ∧ SameMemory s t ∧ t.flags = s.flags ∧ SameChip s t)
      ∧ (∀ r m, ∃ off seg t, Reads s (s.segValue m) (s.ea m) .word off
        ∧ Reads s (s.segValue m) (s.ea m + 2#16) .word seg ∧ exec (.les r m) s = .next t
        ∧ SameRegs (s.setReg16 r off) t ∧ t.ES = seg ∧ t.DS = s.DS ∧ t.SS = s.SS ∧ t.CS = s.CS ∧ t.IP = s.IP
        ∧ SameMemory s t ∧ t.flags = s.flags ∧ SameChip s t)

/-- FLAGS as a word, LAHF and SAHF (R30, R41, R178, R179): each flag at its place, the X positions from the
parameter, discarded on the way back. -/
def Obligations.FlagTransfers : Prop :=
  (∀ (f : Flags) (x : Word), Flags.ofImage (f.image x) = f ∧ (f.image x &&& 0xF02A#16) = (x &&& 0xF02A#16)
      ∧ (f.image x).getLsbD 0 = f.CF ∧ (f.image x).getLsbD 2 = f.PF ∧ (f.image x).getLsbD 4 = f.AF
      ∧ (f.image x).getLsbD 6 = f.ZF ∧ (f.image x).getLsbD 7 = f.SF ∧ (f.image x).getLsbD 8 = f.TF
      ∧ (f.image x).getLsbD 9 = f.IF ∧ (f.image x).getLsbD 10 = f.DF ∧ (f.image x).getLsbD 11 = f.OF)
    ∧ ∀ s : State,
      (∃ t, exec .lahf s = .next t ∧ SetsRegs s t (s.setReg8 .ah (t.reg8 .ah))
          ∧ (t.reg8 .ah).getLsbD 7 = s.flags.SF ∧ (t.reg8 .ah).getLsbD 6 = s.flags.ZF
          ∧ (t.reg8 .ah).getLsbD 4 = s.flags.AF ∧ (t.reg8 .ah).getLsbD 2 = s.flags.PF
          ∧ (t.reg8 .ah).getLsbD 0 = s.flags.CF ∧ (t.reg8 .ah).getLsbD 5 = s.params.flagsX.getLsbD 5
          ∧ (t.reg8 .ah).getLsbD 3 = s.params.flagsX.getLsbD 3
          ∧ (t.reg8 .ah).getLsbD 1 = s.params.flagsX.getLsbD 1)
        ∧ ∃ t, exec .sahf s = .next t ∧ SameRegs s t ∧ SameMemory s t ∧ SameControl s t
          ∧ t.flags =
            { s.flags with
              SF := (s.reg8 .ah).getLsbD 7, ZF := (s.reg8 .ah).getLsbD 6, AF := (s.reg8 .ah).getLsbD 4
              PF := (s.reg8 .ah).getLsbD 2, CF := (s.reg8 .ah).getLsbD 0 }

/-! ## Arithmetic -/

/-- ADD and ADC in all forms (R201 to R206): the sum modulo 2^n and the six status flags of the exact sum. -/
def Obligations.AdditionResults : Prop :=
  ∀ s : State,
    ArithmeticForms s .addRmReg .addRmImm .addAccImm true (fun _ a b r f => AddsTo f a b 0 r)
      ∧ ArithmeticForms s .adcRmReg .adcRmImm .adcAccImm true
        (fun _ a b r f => AddsTo f a b (if s.flags.CF then 1 else 0) r)

/-- SUB, SBB and CMP in all forms (R211 to R216, R220 to R222): the difference modulo 2^n and the six status flags of
the exact difference; CMP writes no operand. -/
def Obligations.SubtractionResults : Prop :=
  ∀ s : State,
    ArithmeticForms s .subRmReg .subRmImm .subAccImm true (fun _ a b r f => SubtractsTo f a b 0 r)
      ∧ ArithmeticForms s .sbbRmReg .sbbRmImm .sbbAccImm true
        (fun _ a b r f => SubtractsTo f a b (if s.flags.CF then 1 else 0) r)
      ∧ ArithmeticForms s .cmpRmReg .cmpRmImm .cmpAccImm false (fun _ a b r f => SubtractsTo f a b 0 r)

/-- After CMP of two registers, the conditional jumps decide the order of the operands: above and below as unsigned
numbers, less and greater as signed ones (R220, R353 to R366). -/
def Obligations.CompareThenJump : Prop :=
  ∀ (s : State) (w : Width) (n m : RegNum) (disp : Byte),
    ∃ t, exec (.cmpRmReg .fromReg w (.reg n) m) s = .next t
      ∧ ∀ (a b : BitVec w.bits), a = s.reg w n → b = s.reg w m →
        exec (.je disp) t = .next (t.jumpIf (decide (a = b)) disp)
          ∧ exec (.jne disp) t = .next (t.jumpIf (decide (a ≠ b)) disp)
          ∧ exec (.jb disp) t = .next (t.jumpIf (decide (a.toNat < b.toNat)) disp)
          ∧ exec (.jnb disp) t = .next (t.jumpIf (decide (b.toNat ≤ a.toNat)) disp)
          ∧ exec (.jbe disp) t = .next (t.jumpIf (decide (a.toNat ≤ b.toNat)) disp)
          ∧ exec (.jnbe disp) t = .next (t.jumpIf (decide (b.toNat < a.toNat)) disp)
          ∧ exec (.jl disp) t = .next (t.jumpIf (decide (a.toInt < b.toInt)) disp)
          ∧ exec (.jnl disp) t = .next (t.jumpIf (decide (b.toInt ≤ a.toInt)) disp)
          ∧ exec (.jle disp) t = .next (t.jumpIf (decide (a.toInt ≤ b.toInt)) disp)
          ∧ exec (.jnle disp) t = .next (t.jumpIf (decide (b.toInt < a.toInt)) disp)

/-- INC, DEC and NEG (R207, R208, R217 to R219): INC and DEC leave CF alone. -/
def Obligations.IncDecNegResults : Prop :=
  ∀ s : State,
    (∀ w rm, ∃ t, exec (.incRm w rm) s = .next t
        ∧ AluEffect s t w (s.loc rm) true fun a r f =>
            f.CF = s.flags.CF ∧ ∃ c, AddsTo { f with CF := c } a 1#w.bits 0 r)
      ∧ (∀ r, ∃ t, exec (.incReg r) s = .next t
        ∧ AluEffect s t .word (.reg (regNumber r)) true fun a v f =>
            f.CF = s.flags.CF ∧ ∃ c, AddsTo { f with CF := c } a 1#16 0 v)
      ∧ (∀ w rm, ∃ t, exec (.decRm w rm) s = .next t
        ∧ AluEffect s t w (s.loc rm) true fun a r f =>
            f.CF = s.flags.CF ∧ ∃ c, SubtractsTo { f with CF := c } a 1#w.bits 0 r)
      ∧ (∀ r, ∃ t, exec (.decReg r) s = .next t
        ∧ AluEffect s t .word (.reg (regNumber r)) true fun a v f =>
            f.CF = s.flags.CF ∧ ∃ c, SubtractsTo { f with CF := c } a 1#16 0 v)
      ∧ (∀ w rm, ∃ t, exec (.negRm w rm) s = .next t
        ∧ AluEffect s t w (s.loc rm) true fun a r f => SubtractsTo f 0#w.bits a 0 r)

/-- The adjustments after addition and subtraction (R209, R210, R223, R224), for every value of AL, AH, AF and CF but
the three cases the spec says to claim nothing for (93_implementation_defined.md: AH after AAA of FAH and up or AAS
below 06H with the adjustment taken; DAA and DAS of 9AH to 9FH with AF = 1 and CF = 0; log 18); the flags the
rules leave undefined are not constrained (log 7). -/
def Obligations.DecimalAdjustResults : Prop :=
  ∀ (s : State) (al ah : Nat) (lo hi : Bool), al = (s.reg8 .al).toNat → ah = (s.reg8 .ah).toNat →
    lo = (decide (9 < al % 16) || s.flags.AF) → hi = (decide (0x99 < al) || s.flags.CF) →
    (∃ t, exec .aaa s = .next t ∧ (t.reg8 .al).toNat = (if lo then al + 6 else al) % 16
        ∧ (al < 0xFA ∨ lo = false → (t.reg8 .ah).toNat = (if lo then ah + 1 else ah) % 256)
        ∧ t.flags.AF = lo ∧ t.flags.CF = lo
        ∧ SameControlFlags s.flags t.flags ∧ SameRegsBut [.ax] s t ∧ SameMemory s t ∧ SameControl s t)
      ∧ (∃ t, exec .aas s = .next t ∧ (t.reg8 .al).toNat = (if lo then al + 250 else al) % 16
        ∧ (6 ≤ al ∨ lo = false → (t.reg8 .ah).toNat = (if lo then ah + 255 else ah) % 256)
        ∧ t.flags.AF = lo ∧ t.flags.CF = lo
        ∧ SameControlFlags s.flags t.flags ∧ SameRegsBut [.ax] s t ∧ SameMemory s t ∧ SameControl s t)
      ∧ (∃ t, exec .daa s = .next t
        ∧ (al < 0x9A ∨ 0x9F < al ∨ s.flags.AF = false ∨ s.flags.CF = true →
          (t.reg8 .al).toNat = (al + (if lo then 6 else 0) + (if hi then 0x60 else 0)) % 256 ∧ t.flags.AF = lo
            ∧ t.flags.CF = hi)
        ∧ t.reg8 .ah = s.reg8 .ah ∧ SzpOf t.flags (t.reg8 .al) ∧ SameControlFlags s.flags t.flags
        ∧ SameRegsBut [.ax] s t ∧ SameMemory s t ∧ SameControl s t)
      ∧ (∃ t, exec .das s = .next t
        ∧ (al < 0x9A ∨ 0x9F < al ∨ s.flags.AF = false ∨ s.flags.CF = true →
          (t.reg8 .al).toNat = (al + (if lo then 250 else 0) + (if hi then 0xA0 else 0)) % 256 ∧ t.flags.AF = lo
            ∧ t.flags.CF = hi)
        ∧ t.reg8 .ah = s.reg8 .ah ∧ SzpOf t.flags (t.reg8 .al) ∧ SameControlFlags s.flags t.flags
        ∧ SameRegsBut [.ax] s t ∧ SameMemory s t ∧ SameControl s t)

/-- What the adjustments are for (R203, R210, R213, R224): ADD then DAA, and SUB then DAS, compute on packed decimal
numbers of two digits, with CF the decimal carry or borrow. -/
def Obligations.PackedDecimalArithmetic : Prop :=
  ∀ (s : State) (x y : Nat) (b : Byte), x < 100 → y < 100 → (s.reg8 .al).toNat = x / 10 * 16 + x % 10 →
    b.toNat = y / 10 * 16 + y % 10 →
    (∃ t u, exec (.addAccImm (.b b)) s = .next t ∧ exec .daa t = .next u
        ∧ (u.reg8 .al).toNat = (x + y) % 100 / 10 * 16 + (x + y) % 10 ∧ (u.flags.CF = true ↔ 100 ≤ x + y))
      ∧ (∃ t u, exec (.subAccImm (.b b)) s = .next t ∧ exec .das t = .next u
        ∧ (u.reg8 .al).toNat = (x + 100 - y) % 100 / 10 * 16 + (x + 100 - y) % 10 ∧ (u.flags.CF = true ↔ x < y))

/-- AAM, AAD, CBW and CWD (R243, R246 to R248); OF, AF and CF after AAM and AAD are not constrained (log 7). -/
def Obligations.ScaleAndConvertResults : Prop :=
  ∀ s : State,
    (∃ t, exec .aam s = .next t ∧ (t.reg8 .ah).toNat = (s.reg8 .al).toNat / 10
        ∧ (t.reg8 .al).toNat = (s.reg8 .al).toNat % 10 ∧ SzpOf t.flags (t.reg8 .al)
        ∧ SameControlFlags s.flags t.flags ∧ SameRegsBut [.ax] s t ∧ SameMemory s t ∧ SameControl s t)
      ∧ (∃ t, exec .aad s = .next t
        ∧ (t.reg8 .al).toNat = ((s.reg8 .ah).toNat * 10 + (s.reg8 .al).toNat) % 256 ∧ t.reg8 .ah = 0#8
        ∧ SzpOf t.flags (t.reg8 .al) ∧ SameControlFlags s.flags t.flags ∧ SameRegsBut [.ax] s t ∧ SameMemory s t
        ∧ SameControl s t)
      ∧ (∃ t, exec .cbw s = .next t ∧ t.AX.toInt = (s.reg8 .al).toInt ∧ t.flags = s.flags ∧ SameRegsBut [.ax] s t
        ∧ SameMemory s t ∧ SameControl s t)
      ∧ (∃ t, exec .cwd s = .next t ∧ t.DX.toInt * 65536 + (t.AX.toNat : Int) = s.AX.toInt ∧ t.flags = s.flags
        ∧ SameRegsBut [.dx] s t ∧ SameMemory s t ∧ SameControl s t)

/-- MUL and IMUL (R241, R242): the exact product; CF and OF say whether the upper half counts; SF, ZF, AF and PF are
not constrained (log 7). -/
def Obligations.MultiplyResults : Prop :=
  ∀ (s : State) (rm : RM),
    (∃ v t, OperandIs s .byte (s.loc rm) v ∧ exec (.mulRm .byte rm) s = .next t
        ∧ t.AX.toNat = (s.reg8 .al).toNat * v.toNat ∧ (t.flags.CF = true ↔ 2 ^ 8 ≤ t.AX.toNat)
        ∧ t.flags.OF = t.flags.CF ∧ SameControlFlags s.flags t.flags ∧ SameRegsBut [.ax] s t ∧ SameMemory s t
        ∧ SameControl s t)
      ∧ (∃ v t, OperandIs s .word (s.loc rm) v ∧ exec (.mulRm .word rm) s = .next t
        ∧ t.DX.toNat * 65536 + t.AX.toNat = s.AX.toNat * v.toNat ∧ (t.flags.CF = true ↔ t.DX.toNat ≠ 0)
        ∧ t.flags.OF = t.flags.CF ∧ SameControlFlags s.flags t.flags ∧ SameRegsBut [.ax, .dx] s t ∧ SameMemory s t
        ∧ SameControl s t)
      ∧ (∃ v t, OperandIs s .byte (s.loc rm) v ∧ exec (.imulRm .byte rm) s = .next t
        ∧ t.AX.toInt = (s.reg8 .al).toInt * v.toInt ∧ (t.flags.CF = true ↔ ¬ Fits 8 t.AX.toInt)
        ∧ t.flags.OF = t.flags.CF ∧ SameControlFlags s.flags t.flags ∧ SameRegsBut [.ax] s t ∧ SameMemory s t
        ∧ SameControl s t)
      ∧ (∃ v t, OperandIs s .word (s.loc rm) v ∧ exec (.imulRm .word rm) s = .next t
        ∧ t.DX.toInt * 65536 + (t.AX.toNat : Int) = s.AX.toInt * v.toInt
        ∧ (t.flags.CF = true ↔ ¬ Fits 16 (s.AX.toInt * v.toInt)) ∧ t.flags.OF = t.flags.CF
        ∧ SameControlFlags s.flags t.flags ∧ SameRegsBut [.ax, .dx] s t ∧ SameMemory s t ∧ SameControl s t)

/-- DIV (R244): quotient and remainder of the exact division where the quotient fits, the divide error of type 0 with
the next instruction's IP saved where it does not or the divisor is 0 (R442). The status flags, and after a divide
error AX (and DX for a word), are not constrained (log 7, 8). -/
def Obligations.UnsignedDivision : Prop :=
  ∀ (s : State) (rm : RM),
    (∃ v, OperandIs s .byte (s.loc rm) v ∧ ∃ t, exec (.divRm .byte rm) s = .next t
        ∧ if v.toNat ≠ 0 ∧ s.AX.toNat / v.toNat ≤ 255 then
            s.AX.toNat = v.toNat * (t.reg8 .al).toNat + (t.reg8 .ah).toNat ∧ (t.reg8 .ah).toNat < v.toNat
              ∧ SameControlFlags s.flags t.flags ∧ SameRegsBut [.ax] s t ∧ SameMemory s t ∧ SameControl s t
          else DivideError s t [.ax])
      ∧ (∃ v, OperandIs s .word (s.loc rm) v ∧ ∃ t, exec (.divRm .word rm) s = .next t
        ∧ if v.toNat ≠ 0 ∧ (s.DX.toNat * 65536 + s.AX.toNat) / v.toNat ≤ 65535 then
            s.DX.toNat * 65536 + s.AX.toNat = v.toNat * t.AX.toNat + t.DX.toNat ∧ t.DX.toNat < v.toNat
              ∧ SameControlFlags s.flags t.flags ∧ SameRegsBut [.ax, .dx] s t ∧ SameMemory s t ∧ SameControl s t
          else DivideError s t [.ax, .dx])

/-- IDIV (R245): quotient rounded toward zero and remainder with the sign of the dividend where the quotient fits;
the most negative quotient counts as fitting only where the parameter IDIV_MIN_FAULTS is false (D12); else the divide
error. -/
def Obligations.SignedDivision : Prop :=
  ∀ (s : State) (rm : RM) (extra : Int), extra = (if s.params.idivMinFaults then 0 else 1) →
    (∃ v, OperandIs s .byte (s.loc rm) v ∧ ∃ t, exec (.idivRm .byte rm) s = .next t
        ∧ if v.toInt ≠ 0 ∧ s.AX.toInt.tdiv v.toInt ≤ 127 ∧ -127 - extra ≤ s.AX.toInt.tdiv v.toInt then
            s.AX.toInt = v.toInt * (t.reg8 .al).toInt + (t.reg8 .ah).toInt
              ∧ (t.reg8 .ah).toInt.natAbs < v.toInt.natAbs ∧ (0 ≤ s.AX.toInt → 0 ≤ (t.reg8 .ah).toInt)
              ∧ (s.AX.toInt ≤ 0 → (t.reg8 .ah).toInt ≤ 0)
              ∧ SameControlFlags s.flags t.flags ∧ SameRegsBut [.ax] s t ∧ SameMemory s t ∧ SameControl s t
          else DivideError s t [.ax])
      ∧ (∀ N : Int, N = s.DX.toInt * 65536 + (s.AX.toNat : Int) →
        ∃ v, OperandIs s .word (s.loc rm) v ∧ ∃ t, exec (.idivRm .word rm) s = .next t
        ∧ if v.toInt ≠ 0 ∧ N.tdiv v.toInt ≤ 32767 ∧ -32767 - extra ≤ N.tdiv v.toInt then
            N = v.toInt * t.AX.toInt + t.DX.toInt ∧ t.DX.toInt.natAbs < v.toInt.natAbs
              ∧ (0 ≤ N → 0 ≤ t.DX.toInt) ∧ (N ≤ 0 → t.DX.toInt ≤ 0)
              ∧ SameControlFlags s.flags t.flags ∧ SameRegsBut [.ax, .dx] s t ∧ SameMemory s t ∧ SameControl s t
          else DivideError s t [.ax, .dx])

/-! ## Logic, shifts and rotates -/

/-- AND, OR, XOR, TEST and NOT (R261, R270 to R281): CF and OF are 0, SF, ZF and PF are of the result, AF is not
constrained (R260, log 7); TEST writes no operand and NOT no flag. -/
def Obligations.LogicResults : Prop :=
  ∀ s : State,
    LogicForms s .andRmReg .andRmImm .andAccImm (fun _ a b => a &&& b)
      ∧ LogicForms s .orRmReg .orRmImm .orAccImm (fun _ a b => a ||| b)
      ∧ LogicForms s .xorRmReg .xorRmImm .xorAccImm (fun _ a b => a ^^^ b)
      ∧ (∀ w rm reg, ∃ t, exec (.testRmReg w rm reg) s = .next t
        ∧ AluEffect s t w (s.loc rm) false fun a r f => r = a &&& s.reg w reg ∧ LogicFlags f r)
      ∧ (∀ rm imm, ∃ t, exec (.testRmImm rm imm) s = .next t
        ∧ AluEffect s t imm.width (s.loc rm) false fun a r f => r = a &&& dataValue imm ∧ LogicFlags f r)
      ∧ (∀ imm, ∃ t, exec (.testAccImm imm) s = .next t
        ∧ AluEffect s t imm.width (.reg .axAl) false fun a r f => r = a &&& dataValue imm ∧ LogicFlags f r)
      ∧ (∀ w rm, ∃ v t, OperandIs s w (s.loc rm) v ∧ exec (.notRm w rm) s = .next t
        ∧ Assigns s t w (s.loc rm) (~~~v))

/-- SHL, SHR and SAR by a count of 1, or of CL, the whole of it, from 1 to 255 (R262 to R265, D13): the arithmetic
value of the shift, CF the last bit shifted out, OF only where the count is 1; AF, and OF for other counts, are not
constrained (log 7). -/
def Obligations.ShiftResults : Prop :=
  ∀ (s : State) (v : Count) (w : Width) (rm : RM) (c : Nat),
    c = (match v with | .one => 1 | .cl => (s.reg8 .cl).toNat) → c ≠ 0 →
    (∃ t, exec (.shl v w rm) s = .next t
        ∧ AluEffect s t w (s.loc rm) true fun a r f =>
            r.toNat = a.toNat * 2 ^ c % 2 ^ w.bits ∧ SzpOf f r
              ∧ (f.CF = true ↔ a.toNat * 2 ^ c / 2 ^ w.bits % 2 = 1) ∧ (c = 1 → f.OF = (r.msb ^^ f.CF)))
      ∧ (∃ t, exec (.shr v w rm) s = .next t
        ∧ AluEffect s t w (s.loc rm) true fun a r f =>
            r.toNat = a.toNat / 2 ^ c ∧ SzpOf f r ∧ (f.CF = true ↔ a.toNat / 2 ^ (c - 1) % 2 = 1)
              ∧ (c = 1 → f.OF = a.msb))
      ∧ (∃ t, exec (.sar v w rm) s = .next t
        ∧ AluEffect s t w (s.loc rm) true fun a r f =>
            r.toInt = a.toInt / 2 ^ c ∧ SzpOf f r ∧ (f.CF = true ↔ a.toInt / 2 ^ (c - 1) % 2 = 1)
              ∧ (c = 1 → f.OF = false))

/-- The four rotates by a count of 1, or of CL, the whole of it, from 1 to 255 (R262, R266 to R269, D13): ROL
and ROR turn the operand and leave in CF the bit that came round; RCL and RCR turn CF and the operand as one; SF, ZF,
AF and PF stay, OF is written for a count of 1 and not constrained for others (log 7). -/
def Obligations.RotateResults : Prop :=
  ∀ (s : State) (v : Count) (w : Width) (rm : RM) (c : Nat),
    c = (match v with | .one => 1 | .cl => (s.reg8 .cl).toNat) → c ≠ 0 →
    (∃ t, exec (.rol v w rm) s = .next t
        ∧ AluEffect s t w (s.loc rm) true fun a r f =>
            r = a.rotateLeft c ∧ f.CF = r.getLsbD 0 ∧ (c = 1 → f.OF = (r.msb ^^ f.CF)) ∧ SameSzap s.flags f)
      ∧ (∃ t, exec (.ror v w rm) s = .next t
        ∧ AluEffect s t w (s.loc rm) true fun a r f =>
            r = a.rotateRight c ∧ f.CF = r.msb ∧ (c = 1 → f.OF = (r.msb ^^ r.getLsbD (w.bits - 2)))
              ∧ SameSzap s.flags f)
      ∧ (∃ t, exec (.rcl v w rm) s = .next t
        ∧ AluEffect s t w (s.loc rm) true fun a r f =>
            BitVec.ofBool f.CF ++ r = (BitVec.ofBool s.flags.CF ++ a).rotateLeft c
              ∧ (c = 1 → f.OF = (r.msb ^^ f.CF)) ∧ SameSzap s.flags f)
      ∧ (∃ t, exec (.rcr v w rm) s = .next t
        ∧ AluEffect s t w (s.loc rm) true fun a r f =>
            BitVec.ofBool f.CF ++ r = (BitVec.ofBool s.flags.CF ++ a).rotateRight c
              ∧ (c = 1 → f.OF = (r.msb ^^ r.getLsbD (w.bits - 2))) ∧ SameSzap s.flags f)

/-- A shift or rotate by CL = 0 changes no register, no flag and no byte of memory (R262). -/
def Obligations.ShiftByZero : Prop :=
  ∀ (s : State) (w : Width) (rm : RM), s.reg8 .cl = 0#8 →
    ∀ i ∈ [Instr.shl .cl w rm, .shr .cl w rm, .sar .cl w rm, .rol .cl w rm, .ror .cl w rm, .rcl .cl w rm,
      .rcr .cl w rm], ∃ t, exec i s = .next t ∧ SetsRegs s t s

/-! ## Strings -/

/-- Without a repeat prefix each primitive runs once and CX is not touched (R300, R303 to R307). -/
def Obligations.StringPrimitiveOnce : Prop :=
  ∀ (i : Instr) (s : State), isStringInstr i = true → s.rep = none →
    ∃ t, exec i s = .next t ∧ t.repeating = none ∧ PrimitiveEffect i s { t with repeating := s.repeating }

/-- Under a repeat prefix with CX not 0, one iteration: the primitive's effect, CX less 1, and iterations left unless
CX is 0 or a comparison left ZF other than z; with CX = 0 nothing happens (R301, R302). How State holds a repetition in
progress is the model's choice (log 6). -/
def Obligations.RepeatedIteration : Prop :=
  ∀ (i : Instr) (s : State) (z : Bool), isStringInstr i = true → s.rep = some z →
    (s.CX = 0#16 → exec i s = .next { s with repeating := none })
      ∧ (s.CX ≠ 0#16 → ∃ t, exec i s = .next t ∧ t.CX = s.CX - 1#16
        ∧ PrimitiveEffect i s { t with CX := s.CX, repeating := s.repeating }
        ∧ (t.repeating = some i ∨ t.repeating = none)
        ∧ (t.repeating = some i ↔ t.CX ≠ 0#16 ∧ (isCompare i → t.flags.ZF = z)))

/-- A repeated MOVS, LODS or STOS ends after CX iterations, with CX = 0, SI and DI moved by as many elements, and no
flag changed (R301, R303, R306, R307). -/
def Obligations.RepeatRunsCxTimes : Prop :=
  ∀ (i : Instr) (s : State) (z : Bool) (w : Width), (i = .movs w ∨ i = .lods w ∨ i = .stos w) → s.rep = some z →
    ∃ t, execTimes i s.CX.toNat s = .next t ∧ t.CX = 0#16 ∧ t.flags = s.flags
      ∧ t.SI = (if i = .stos w then s.SI else s.SI + s.CX * elementStep s w)
      ∧ t.DI = (if i = .lods w then s.DI else s.DI + s.CX * elementStep s w)
      ∧ (s.CX ≠ 0#16 → t.repeating = none)

/-! ## Control transfer -/

/-- The four CALLs (R331 to R334): the return address is pushed, CS first for the far ones, and control goes to the
target, which an indirect form reads before it pushes. -/
def Obligations.CallResults : Prop :=
  ∀ s : State,
    (∀ disp, ∃ t, exec (.callNear disp) s = .next t ∧ Pushes s t [s.IP] ∧ GoesTo s t s.CS (s.IP + disp)
        ∧ t.flags = s.flags)
      ∧ (∀ rm, ∃ v t, OperandIs s .word (s.loc rm) v ∧ exec (.callRm rm) s = .next t ∧ Pushes s t [s.IP]
        ∧ GoesTo s t s.CS v ∧ t.flags = s.flags)
      ∧ (∀ off seg, ∃ t, exec (.callFar off seg) s = .next t ∧ Pushes s t [s.CS, s.IP] ∧ GoesTo s t seg off
        ∧ t.flags = s.flags)
      ∧ (∀ m, ∃ off seg t, Reads s (s.segValue m) (s.ea m) .word off
        ∧ Reads s (s.segValue m) (s.ea m + 2#16) .word seg ∧ exec (.callMemFar m) s = .next t
        ∧ Pushes s t [s.CS, s.IP] ∧ GoesTo s t seg off ∧ t.flags = s.flags)

/-- The five JMPs (R335 to R339): control goes to the target; nothing else changes. -/
def Obligations.JumpResults : Prop :=
  ∀ s : State,
    (∀ disp, ∃ t, exec (.jmpNear disp) s = .next t ∧ GoesTo s t s.CS (s.IP + disp) ∧ SameRegs s t
        ∧ SameMemory s t ∧ t.flags = s.flags)
      ∧ (∀ disp : Byte, ∃ t, exec (.jmpShort disp) s = .next t ∧ GoesTo s t s.CS (s.IP + disp.signExtend 16)
        ∧ SameRegs s t ∧ SameMemory s t ∧ t.flags = s.flags)
      ∧ (∀ rm, ∃ v t, OperandIs s .word (s.loc rm) v ∧ exec (.jmpRm rm) s = .next t ∧ GoesTo s t s.CS v
        ∧ SameRegs s t ∧ SameMemory s t ∧ t.flags = s.flags)
      ∧ (∀ off seg, ∃ t, exec (.jmpFar off seg) s = .next t ∧ GoesTo s t seg off ∧ SameRegs s t ∧ SameMemory s t
        ∧ t.flags = s.flags)
      ∧ (∀ m, ∃ off seg t, Reads s (s.segValue m) (s.ea m) .word off
        ∧ Reads s (s.segValue m) (s.ea m + 2#16) .word seg ∧ exec (.jmpMemFar m) s = .next t ∧ GoesTo s t seg off
        ∧ SameRegs s t ∧ SameMemory s t ∧ t.flags = s.flags)

/-- The four RETs (R340 to R343): IP, and CS for the far ones, from the stack; the immediate is added to SP after
the pops. -/
def Obligations.ReturnResults : Prop :=
  ∀ s : State,
    (∃ ip t, Reads s s.SS s.SP .word ip ∧ exec .ret s = .next t ∧ GoesTo s t s.CS ip
        ∧ SameRegs { s with SP := s.SP + 2#16 } t ∧ SameMemory s t ∧ t.flags = s.flags)
      ∧ (∀ n, ∃ ip t, Reads s s.SS s.SP .word ip ∧ exec (.retImm n) s = .next t ∧ GoesTo s t s.CS ip
        ∧ SameRegs { s with SP := s.SP + 2#16 + n } t ∧ SameMemory s t ∧ t.flags = s.flags)
      ∧ (∃ ip cs t, Reads s s.SS s.SP .word ip ∧ Reads s s.SS (s.SP + 2#16) .word cs ∧ exec .retf s = .next t
        ∧ GoesTo s t cs ip ∧ SameRegs { s with SP := s.SP + 4#16 } t ∧ SameMemory s t ∧ t.flags = s.flags)
      ∧ (∀ n, ∃ ip cs t, Reads s s.SS s.SP .word ip ∧ Reads s s.SS (s.SP + 2#16) .word cs
        ∧ exec (.retfImm n) s = .next t ∧ GoesTo s t cs ip ∧ SameRegs { s with SP := s.SP + 4#16 + n } t
        ∧ SameMemory s t ∧ t.flags = s.flags)

/-- The sixteen conditional jumps (R350 to R366): where the condition of the table holds, IP moves by the
sign-extended displacement and the queue is emptied; else nothing changes. -/
def Obligations.ConditionalJumpResults : Prop :=
  ∀ (s : State) (disp : Byte), ∀ p ∈ jumpTable disp s.flags,
    (p.2 → exec p.1 s = .next { s with IP := s.IP + disp.signExtend 16, queue := [] })
      ∧ (¬ p.2 → exec p.1 s = .next s)

/-- LOOP, LOOPZ, LOOPNZ and JCXZ (R380 to R383): CX is decremented without a flag and the jump goes by the new CX
and ZF; JCXZ only tests. -/
def Obligations.LoopResults : Prop :=
  ∀ (s t u : State) (disp : Byte), t = { s with CX := s.CX - 1#16 } →
    u = { t with IP := s.IP + disp.signExtend 16, queue := [] } →
    exec (.loop disp) s = .next (if s.CX = 1#16 then t else u)
      ∧ exec (.loopz disp) s = .next (if s.CX = 1#16 ∨ s.flags.ZF = false then t else u)
      ∧ exec (.loopnz disp) s = .next (if s.CX = 1#16 ∨ s.flags.ZF = true then t else u)
      ∧ exec (.jcxz disp) s =
        .next (if s.CX = 0#16 then { s with IP := s.IP + disp.signExtend 16, queue := [] } else s)

/-- INT n, INT 3 and INTO (R390 to R392): the interrupt sequence with the next instruction's IP saved; INTO with OF
= 0 does nothing. -/
def Obligations.SoftwareInterruptResults : Prop :=
  ∀ s : State,
    (∀ n, ∃ t, exec (.intN n) s = .next t ∧ InterruptTaken s t n s.IP ∧ SameRecognition s t)
      ∧ (∃ t, exec .int3 s = .next t ∧ InterruptTaken s t 0x03#8 s.IP ∧ SameRecognition s t)
      ∧ (s.flags.OF = true → ∃ t, exec .into s = .next t ∧ InterruptTaken s t 0x04#8 s.IP ∧ SameRecognition s t)
      ∧ (s.flags.OF = false → exec .into s = .next s)

/-- IRET (R393): IP, CS and FLAGS from the stack in that order, all nine flags restored, SP plus 6. -/
def Obligations.InterruptReturnResult : Prop :=
  ∀ s : State, ∃ ip cs fl t, Reads s s.SS s.SP .word ip ∧ Reads s s.SS (s.SP + 2#16) .word cs
    ∧ Reads s s.SS (s.SP + 4#16) .word fl ∧ exec .iret s = .next t ∧ GoesTo s t cs ip
    ∧ t.flags = Flags.ofImage fl ∧ SameRegs { s with SP := s.SP + 6#16 } t ∧ SameMemory s t

/-- What comes back from the stack, with RAM under it and no other master writing (R68, R69, R79, R159, R162, R331,
R333, R340, R342, R390, R393, R440). A word pushed and popped into any register is that word, and no other register has
changed. A CALL and the RET of its kind come back to the instruction after the CALL with every register and flag as it
was. IRET undoes an interrupt of any type: CS:IP, all nine flags, every register and segment register are as they
were, and no byte outside the six pushed differs. -/
def Obligations.StackRoundTrips : Prop :=
  ∀ s : State, s.Undisturbed →
    (∀ r q : Reg16, (∀ k < 2, kindAt s.params.memMap (phys s.SS (s.SP - BitVec.ofNat 16 (k + 1))) = .ram) →
        ∃ t u, exec (.pushReg r) s = .next t ∧ exec (.popReg q) t = .next u
          ∧ u.reg16 q = (if r = .sp then s.SP - 2#16 else s.reg16 r) ∧ SameRegsBut [q] s u ∧ u.flags = s.flags)
      ∧ (∀ disp, (∀ k < 2, kindAt s.params.memMap (phys s.SS (s.SP - BitVec.ofNat 16 (k + 1))) = .ram) →
        ∃ t u, exec (.callNear disp) s = .next t ∧ exec .ret t = .next u ∧ GoesTo s u s.CS s.IP
          ∧ SameRegs s u ∧ u.flags = s.flags)
      ∧ (∀ off seg, (∀ k < 4, kindAt s.params.memMap (phys s.SS (s.SP - BitVec.ofNat 16 (k + 1))) = .ram) →
        ∃ t u, exec (.callFar off seg) s = .next t ∧ exec .retf t = .next u ∧ GoesTo s u s.CS s.IP
          ∧ SameRegs s u ∧ u.flags = s.flags)
      ∧ ∀ n : Byte, (∀ k < 6, kindAt s.params.memMap (phys s.SS (s.SP - BitVec.ofNat 16 (k + 1))) = .ram) →
        ∃ t u, exec (.intN n) s = .next t ∧ exec .iret t = .next u ∧ u.CS = s.CS ∧ u.IP = s.IP ∧ u.flags = s.flags
          ∧ SameRegs s u ∧ SameDataSegs s u
          ∧ ∀ a : PAddr, (∀ k < 6, a ≠ phys s.SS (s.SP - BitVec.ofNat 16 (k + 1))) → u.byteAt a = s.byteAt a

/-! ## Processor control -/

/-- The seven flag instructions (R400 to R406): one flag each; STI that finds IF = 0 sets the INTR shadow
(R437 c). -/
def Obligations.FlagInstructionResults : Prop :=
  ∀ s : State,
    exec .clc s = .next { s with flags := { s.flags with CF := false } }
      ∧ exec .cmc s = .next { s with flags := { s.flags with CF := !s.flags.CF } }
      ∧ exec .stc s = .next { s with flags := { s.flags with CF := true } }
      ∧ exec .cld s = .next { s with flags := { s.flags with DF := false } }
      ∧ exec .std s = .next { s with flags := { s.flags with DF := true } }
      ∧ exec .cli s = .next { s with flags := { s.flags with IF := false } }
      ∧ (s.flags.IF = false →
        exec .sti s = .next { s with flags := { s.flags with IF := true }, stiShadow := true })
      ∧ (s.flags.IF = true → exec .sti s = .next s)

/-- HLT, WAIT, ESC and the prefixes (R408 to R412, R301): HLT enters the halt state and shows the halt status once;
WAIT goes on when TEST is low and back to itself when it is high; ESC reads a memory operand's word and drops it; a
prefix sets its effect, the last of a kind winning. The TEST level where the environment supplies none is a free value
(log 11); the trace of bus cycles is the model's (log 13), and instruction fetches, which may come between, are not
listed. -/
def Obligations.ProcessorControlResults : Prop :=
  ∀ s : State,
    (∃ t, exec .hlt s = .next t ∧ t.halted = true ∧ t.bus = s.cycle .halt .codeOrNone none none :: s.bus
        ∧ BusKind.statusMin .halt = (true, true, true) ∧ BusKind.statusMax .halt = (false, true, true)
        ∧ SameRegs s t ∧ SameMemory s t ∧ t.flags = s.flags ∧ SameControl { s with halted := true } t)
      ∧ (∃ low t, (∀ p, s.pins = some p → low = p.testLow) ∧ exec .wait s = .next t ∧ t.waiting = !low
        ∧ t.bus = s.bus ∧ SetsRegs { s with waiting := !low, IP := if low then s.IP else s.IP - 1#16 } t s)
      ∧ (∀ x1 x2 n, exec (.esc x1 x2 (.reg n)) s = .next s)
      ∧ (∀ x1 x2 m, ∃ v t, Reads s (s.segValue m) (s.ea m) .word v ∧ exec (.esc x1 x2 (.mem m)) s = .next t
        ∧ SetsRegs s t s
        ∧ t.dataCycles =
          s.cycle .memRead (segStatusOf (s.segOf m)) (some (phys (s.segValue m) (s.ea m + 1#16))) (some (highByte v))
            :: s.cycle .memRead (segStatusOf (s.segOf m)) (some (phys (s.segValue m) (s.ea m))) (some (lowByte v))
            :: s.dataCycles)
      ∧ (∀ z, exec (.rep z) s = .next { s with rep := some z }) ∧ exec .lock s = .next { s with lock := true }
      ∧ (∀ sr, exec (.segment sr) s = .next { s with ovr := some sr })

/-! ## Recognition -/

/-- An NMI edge is latched at a step's sample, and nothing else is, once an instruction has begun since RESET (R45,
R433, R502). A pending NMI is then taken at a boundary without a full shadow, whatever IF and INTR are (R436, R438):
type 2, the latch cleared, LOCK over, the saved IP the next instruction's or, inside a repetition, that of the prefix
just before the string opcode (R302, R448). How the boundary after a hardware sequence is told apart is the model's,
and so is the saved IP after the last iteration (log 21). -/
def Obligations.NmiTaken : Prop :=
  (∀ (s : State) (p : PinSample), (s.fresh = false → s.edgeSeen p = p.nmi) ∧ (p.nmi = false → s.edgeSeen p = false))
    ∧ (∀ s u : State, s.Sampled u →
      (s.env = [] → u.nmiLatch = s.nmiLatch)
        ∧ ∀ p ps, s.env = p :: ps →
          (s.fresh = false → u.nmiLatch = (s.nmiLatch || p.nmi)) ∧ (p.nmi = false → u.nmiLatch = s.nmiLatch))
    ∧ ∀ s u : State, s.Sampled u → (u.noPrefix ∨ u.repeating ≠ none) → u.fullShadow = false → u.fresh = false →
      (u.afterSeq = false ∨ u.trapDue = false) → u.nmiLatch = true →
      ∃ t, step s = .next (s.ended u t)
        ∧ InterruptTaken { u with lock := false } t 0x02#8 (if u.repeating = none then u.IP else u.IP - 2#16)
        ∧ t.nmiLatch = false ∧ t.trapDue = u.trapDue ∧ t.afterSeq = true ∧ t.fullShadow = false ∧ t.stiShadow = false

/-- INTR high with IF = 1, no shadow and no NMI pending is taken with the type the acknowledge sequence reads: two
acknowledge cycles with none between, the type in the second, LOCK in the first in maximum mode (R434, R437, R438,
R441). The trace of bus cycles is the model's (log 13), and so is how the boundary after a hardware sequence is told
apart (log 21). -/
def Obligations.IntrTaken : Prop :=
  ∀ (s u : State) (p : PinSample), s.Sampled u → (u.noPrefix ∨ u.repeating ≠ none) → u.fullShadow = false →
    u.fresh = false → (u.afterSeq = false ∨ u.trapDue = false) → u.nmiLatch = false → u.pins = some p → u.IntrAccepted →
    ∃ t later earlier, step s = .next (s.ended u t)
      ∧ InterruptTaken { u with lock := false } t p.intaType (if u.repeating = none then u.IP else u.IP - 2#16)
      ∧ t.nmiLatch = false ∧ t.trapDue = u.trapDue ∧ t.afterSeq = true ∧ t.fullShadow = false ∧ t.stiShadow = false
      ∧ t.bus = later ++
        { kind := .inta, seg := .codeOrNone, addr := none, data := some p.intaType, s5 := true, lock := false }
          :: { kind := .inta, seg := .codeOrNone, addr := none, data := none, s5 := true
               lock := u.params.mode == .max } :: (earlier ++ u.bus)
      ∧ ∀ c ∈ earlier, c.kind = .code

/-- The single-step trap due is taken when no external interrupt is, or right after one was (R436, R438 step 3,
R446): type 1, LOCK over, and no further trap is due. How the boundary after a hardware sequence is told apart is the
model's, and so is the saved IP after the last iteration (log 21). -/
def Obligations.SingleStepTaken : Prop :=
  ∀ s u : State, s.Sampled u → (u.noPrefix ∨ u.repeating ≠ none) → u.fullShadow = false →
    u.fresh = false → u.trapDue = true →
    (u.afterSeq = true ∨ (u.nmiLatch = false ∧ ¬ u.IntrAccepted)) →
    ∃ t, step s = .next (s.ended u t)
      ∧ InterruptTaken { u with lock := false } t 0x01#8 (if u.repeating = none then u.IP else u.IP - 2#16)
      ∧ t.trapDue = false ∧ t.nmiLatch = u.nmiLatch ∧ t.afterSeq = true

/-- A boundary where nothing is recognised: a halted chip does nothing at all, not even prefetch (R408, R16; INTR with
IF = 0 does not wake it); a waiting chip examines TEST once more without fetching the WAIT byte again, and the trap
after it goes by TF (R409, R446); a repetition goes on with its next iteration (R302). That the WAIT byte is not fetched
again is the model's choice (log 9), and so is that the first iteration of a repetition ends STI's shadow (log 27). -/
def Obligations.NothingRecognised : Prop :=
  ∀ s u : State, s.Sampled u → u.fullShadow = false → u.NothingPending →
    (u.halted = true → u.noPrefix → step s = .next u)
      ∧ (u.halted = false → u.waiting = true → u.repeating = none → u.noPrefix →
        ∃ t, exec .wait
            { u with
              IP := u.IP + 1#16, trapDue := u.flags.TF, afterSeq := false, fresh := false, waiting := false
              fullShadow := false, stiShadow := false } = .next t
          ∧ step s = .next (s.ended u t))
      ∧ (∀ i, u.halted = false → u.waiting = false → u.repeating = some i →
        ∃ t, exec i u.unshadowed = .next t
          ∧ step s = .next (s.ended u (if t.repeating = none then t.withoutPrefixes else t)))

/-- A request for the bus (R82, R475, R476): unless LOCK is active in maximum mode, a step grants it before anything
else runs, RQ/GT0 before RQ/GT1 and earlier before later, and the others stay recorded; nothing of the chip changes,
and memory changes by what the other master writes alone, byte after byte, where RAM answers and the parameter allows
other masters (R79, R80, D7). In maximum mode a request recorded under LOCK is still there for the first step without
it; HOLD is a level and is not recorded. A halted chip that takes the bus back says so again (R408, R475). A bus cycle
in progress waits while READY is low, and a step that runs one ends with it in progress (R477). One request a step, and
that a request goes before a low READY and before an INTR of the same sample, are the model's (log 15). -/
def Obligations.BusHeld : Prop :=
  ∀ (s u : State) (p : PinSample) (ps : List PinSample), s.env = p :: ps → p.reset = false →
    u =
      { s with
        pins := some p, env := ps, nmiLatch := s.nmiLatch || s.edgeSeen p
        draws := s.draws + (if s.fresh then 1 else 0)
        gaps := p.gaps.map fun l => l.filter fun q => q.pin == .first || s.params.mode == .max
        requests :=
          (if s.params.mode = .max then s.requests else [])
            ++ p.requests.filter fun q => q.pin == .first || s.params.mode == .max
        stalled := false } →
    (s.stalled = true → p.ready = false → step s = .next { u with stalled := true })
      ∧ (s.stalled = false ∨ p.ready = true → ¬ (s.lock = true ∧ s.params.mode = .max) → u.requests ≠ [] →
        ∃ r rs t, step s = .next t
          ∧ (∀ pin, (r :: rs).filter (fun q => q.pin == pin) = u.requests.filter fun q => q.pin == pin)
          ∧ ((∃ q ∈ u.requests, q.pin = .first) → r.pin = .first)
          ∧ t.requests = rs ∧ t.gaps = u.gaps ∧ SameChip { u with busGranted := true } t
          ∧ SameRegs s t ∧ SameDataSegs s t ∧ t.CS = s.CS ∧ t.IP = s.IP ∧ t.flags = s.flags
          ∧ (∀ a, t.byteAt a =
            (if s.params.otherMasters then r.writes.foldl (fun x w => x.storeByte w.1 w.2) s else s).byteAt a)
          ∧ (s.params.mode = .min ∨ s.busGranted = false → t.bus = s.bus ∧ t.queue = s.queue)
          ∧ (s.params.mode = .max → s.busGranted = true → s.halted = true →
            t.bus = s.cycle .halt .codeOrNone none none :: s.bus ∧ t.queue = s.queue)
          ∧ (s.halted = false → t.dataCycles = s.dataCycles))
      ∧ (s.stalled = false ∨ p.ready = true → u.requests = [] → s.busGranted = true → s.halted = true →
        s.noPrefix → s.fullShadow = false → u.NothingPending →
        step s = .next { u with busGranted := false, bus := s.cycle .halt .codeOrNone none none :: s.bus })
      ∧ (s.stalled = false → p.ready = false → ((s.lock = true ∧ s.params.mode = .max) ∨ u.requests = []) →
        ∀ t, step s = .next t →
          (t.stalled = true ↔ ∃ c ∈ t.bus.take (t.bus.length - s.bus.length), c.kind ≠ .halt))

/-- Other masters between the bus cycles of one instruction (R72, R80, R82, R83, R164, R411, D7, D27), shown with one
request that comes before the second cycle. Without LOCK it is honored there: XCHG with memory reads before it and
writes after it, so that the exchange is no single access. Under LOCK, in maximum mode, it is recorded and the other
master writes nothing before the instruction ends. The bytes of a word are split by HOLD in minimum mode and by
nothing in maximum mode. An instruction that runs no bus cycle lets no other master in. LOCK is active exactly where its
prefix is in force in maximum mode, and a cycle shows it beside S5, which is IF (R37, R473). How the requests of a step
are laid out is the model's (log 15), and so is the trace (log 13). -/
def Obligations.MastersBetweenCycles : Prop :=
  (∀ (s : State) (m : MemOp) (reg : RegNum) (a x : PAddr) (b : Byte) (r : BusRequest),
      s.params.otherMasters = true → s.requests = [] → r.writes = [(a, b)] → s.gaps = [[], [r]] →
      kindAt s.params.memMap a = .ram → kindAt s.params.memMap x = .ram →
      (x = phys (s.segValue m) (s.ea m) →
          ∃ t, exec (.xchgRmReg .byte (.mem m) reg) s = .next t ∧ t.reg .byte reg = s.byteAt x
            ∧ t.byteAt x = s.reg .byte reg ∧ t.requests = (if s.lock = true ∧ s.params.mode = .max then [r] else [])
            ∧ ∀ y, y ≠ x → t.byteAt y =
              if y = a ∧ ¬ (s.lock = true ∧ s.params.mode = .max) then b else s.byteAt y)
        ∧ (x = phys (s.segValue m) (s.ea m + 1#16) → s.Remembers (phys (s.segValue m) (s.ea m)) →
          ∃ t, exec (.movRmReg .toReg .word (.mem m) reg) s = .next t
            ∧ lowByte (t.reg .word reg) = s.byteAt (phys (s.segValue m) (s.ea m))
            ∧ highByte (t.reg .word reg) = (if x = a ∧ s.params.mode = .min then b else s.byteAt x)
            ∧ t.requests = (if s.params.mode = .max then [r] else [])))
    ∧ (∀ (i : Instr) (s t : State), exec i s = .next t → t.bus = s.bus →
      t.gaps = s.gaps ∧ t.requests = s.requests ∧ ∀ a, t.byteAt a = s.byteAt a)
    ∧ (∀ s : State, s.lockActive = true ↔ s.lock = true ∧ s.params.mode = .max)
    ∧ ∀ (s : State) (k : BusKind) (sg : SegStatus) (pa : Option PAddr) (d : Option Byte),
      s.cycle k sg pa d =
        { kind := k, seg := sg, addr := pa, data := d, s5 := s.flags.IF
          lock := decide (s.lock = true ∧ s.params.mode = .max) }

/-- What answers at an address (R77, R79, R457, D21), shown with MOV between AL and memory, no other master writing and
no code in a device: RAM and ROM give the byte they hold and only RAM takes a new one; a device gives its next answer,
and a write to it is an event on the bus; where nothing answers the byte is not constrained. Each is one bus cycle at
the address whatever answers. How the environment supplies a device's answers is the model's choice (log 12). -/
def Obligations.RegionAnswers : Prop :=
  ∀ (s : State) (addr : Word) (pa : PAddr) (k : RegionKind), s.Undisturbed →
    (∀ off, kindAt s.params.memMap (phys s.CS off) ≠ .device) → pa = phys (s.sreg s.dataSeg) addr →
    kindAt s.params.memMap pa = k →
    (∃ t, exec (.movAccMem .byte addr) s = .next t
        ∧ t.dataCycles = s.cycle .memRead (segStatusOf s.dataSeg) (some pa) (some (t.reg8 .al)) :: s.dataCycles
        ∧ (k = .ram ∨ k = .rom → t.reg8 .al = s.byteAt pa)
        ∧ (k = .device → (∀ b, s.devIn.head? = some b → t.reg8 .al = b) ∧ t.devIn = s.devIn.tail)
        ∧ (k ≠ .device → t.devIn = s.devIn))
      ∧ ∃ t, exec (.movMemAcc .byte addr) s = .next t
        ∧ t.dataCycles = s.cycle .memWrite (segStatusOf s.dataSeg) (some pa) (some (s.reg8 .al)) :: s.dataCycles
        ∧ (k = .ram → t.byteAt pa = s.reg8 .al) ∧ (k ≠ .ram → t.byteAt pa = s.byteAt pa)
        ∧ (∀ a, a ≠ pa → t.byteAt a = s.byteAt a) ∧ t.devIn = s.devIn

/-- What a fetch delivers (R45, R70, R85, R511): the oldest byte of the queue and, where the queue is empty, the byte
memory holds, by a Code Access cycle. A prefetch puts at the end of the queue the bytes memory holds then, at the
addresses that come next, up to four, and nothing while the chip is halted. A store does not reach the
queue, and an instruction leaves in front of it what was there, or empties it: an old byte stays deliverable until it is
consumed or the queue is emptied. How the queue is kept, and that a waiting chip has the byte after WAIT at its front,
are the model's choice (log 9). -/
def Obligations.FetchDelivers : Prop :=
  (∀ s : State,
      (∀ b q, s.queue = b :: q → s.fetchOne = (b, { s with IP := s.IP + 1#16, queue := q }))
        ∧ (s.queue = [] → s.Undisturbed →
          s.fetchOne.2.IP = s.IP + 1#16 ∧ s.fetchOne.2.queue = []
            ∧ s.fetchOne.2.bus = s.cycle .code .codeOrNone (some (phys s.CS s.IP)) (some s.fetchOne.1) :: s.bus
            ∧ (s.Remembers (phys s.CS s.IP) → s.fetchOne.1 = s.byteAt (phys s.CS s.IP)))
        ∧ s.codeBytes = [s.fetchOne.1, s.fetchOne.2.fetchOne.1, s.fetchOne.2.fetchOne.2.fetchOne.1,
            s.fetchOne.2.fetchOne.2.fetchOne.2.fetchOne.1, s.fetchOne.2.fetchOne.2.fetchOne.2.fetchOne.2.fetchOne.1,
            s.fetchOne.2.fetchOne.2.fetchOne.2.fetchOne.2.fetchOne.2.fetchOne.1]
        ∧ (∀ n, s.fetched (n + 1) = s.fetchOne.2.fetched n) ∧ s.fetched 0 = s)
    ∧ (∀ s : State, ∃ q b d n,
      s.prefetch = { s with queue := s.queue ++ q, bus := b ++ s.bus, devIn := d, draws := n }
        ∧ (s.queue.length ≤ 4 → (s.queue ++ q).length ≤ 4) ∧ (∀ c ∈ b, c.kind = .code)
        ∧ (∀ (k : Nat) (x : Byte) (a : PAddr), q[k]? = some x →
          a = phys s.CS ((if s.waiting then s.IP + 1#16 else s.IP) + BitVec.ofNat 16 (s.queue.length + k)) →
          s.Remembers a → x = s.byteAt a)
        ∧ (s.halted = true → s.prefetch = s))
    ∧ (∀ (s : State) (a : PAddr) (v : Byte), (s.storeByte a v).queue = s.queue)
    ∧ ∀ (i : Instr) (s t : State), exec i s = .next t → t.queue = [] ∨ ∃ q, t.queue = s.queue ++ q

end
end

