-- ==== Sys2Proof/Laws/Memory.lean ====
section
/-! SUPPORT. Memory as a list of cells: a read after a write, and the canonical form every write keeps. -/

namespace Sys2Proof.Machine

theorem Memory.read_cons (k : Nat) (v : Byte) (m : List Host.Cell) (a : Nat) :
    Memory.read ((k, v) :: m) a = if k = a then v else Memory.read m a := rfl

theorem Memory.read_insert_same (m : List Host.Cell) (a : Nat) (v : Byte) (h : ∀ c ∈ m, c.1 ≠ a) :
    Memory.read (Memory.insert m a v) a = v := by
  induction m with
  | nil => simp [Memory.insert, Memory.read]
  | cons c m ih =>
    obtain ⟨k, u⟩ := c
    have hk : k ≠ a := h (k, u) (by simp)
    unfold Memory.insert
    split
    · simp [Memory.read]
    · simp [Memory.read, hk, ih fun c hc => h c (by simp [hc])]

theorem Memory.read_insert_other (m : List Host.Cell) (a b : Nat) (v : Byte) (h : a ≠ b) :
    Memory.read (Memory.insert m a v) b = Memory.read m b := by
  induction m with
  | nil => simp [Memory.insert, Memory.read, h]
  | cons c m ih =>
    obtain ⟨k, u⟩ := c
    unfold Memory.insert
    split
    · simp [Memory.read, h]
    · simp [Memory.read, ih]

theorem Memory.read_filter_same (m : List Host.Cell) (a : Nat) :
    Memory.read (m.filter fun c => c.1 != a) a = Memory.unlisted := by
  induction m with
  | nil => rfl
  | cons c m ih =>
    obtain ⟨k, u⟩ := c
    by_cases h : k = a
    · simp [h, ih]
    · simp [h, Memory.read, ih]

theorem Memory.read_filter_other (m : List Host.Cell) (a b : Nat) (h : a ≠ b) :
    Memory.read (m.filter fun c => c.1 != a) b = Memory.read m b := by
  induction m with
  | nil => rfl
  | cons c m ih =>
    obtain ⟨k, u⟩ := c
    by_cases hk : k = a
    · have hkb : k ≠ b := hk ▸ h
      subst hk
      simp [Memory.read, hkb, ih]
    · simp [hk, Memory.read, ih]

/-- A byte read back after it was written is the byte written. -/
@[simp] theorem Memory.read_write_same (m : List Host.Cell) (a : Nat) (v : Byte) :
    Memory.read (Memory.write m a v) a = v := by
  unfold Memory.write
  split
  · rename_i h
    rw [Memory.read_filter_same, h]
  · exact Memory.read_insert_same _ _ _ fun c hc => by simpa using (List.mem_filter.mp hc).2

/-- A write leaves every other byte alone. -/
theorem Memory.read_write_other (m : List Host.Cell) (a b : Nat) (v : Byte) (h : a ≠ b) :
    Memory.read (Memory.write m a v) b = Memory.read m b := by
  unfold Memory.write
  split
  · exact Memory.read_filter_other _ _ _ h
  · rw [Memory.read_insert_other _ _ _ _ h, Memory.read_filter_other _ _ _ h]

theorem Memory.mem_insert (m : List Host.Cell) (a : Nat) (v : Byte) (c : Host.Cell) :
    c ∈ Memory.insert m a v ↔ c = (a, v) ∨ c ∈ m := by
  induction m with
  | nil => simp [Memory.insert]
  | cons d m ih =>
    obtain ⟨k, u⟩ := d
    unfold Memory.insert
    split
    · simp
    · simp only [List.mem_cons, ih]
      constructor
      · rintro (h | h | h) <;> simp [h]
      · rintro (h | h | h) <;> simp [h]

theorem Memory.insert_rising (m : List Host.Cell) (a : Nat) (v : Byte)
    (hm : m.Pairwise fun c d => c.1 < d.1) (h : ∀ c ∈ m, c.1 ≠ a) :
    (Memory.insert m a v).Pairwise fun c d => c.1 < d.1 := by
  induction m with
  | nil => simp [Memory.insert]
  | cons c m ih =>
    obtain ⟨k, u⟩ := c
    rw [List.pairwise_cons] at hm
    have hk : k ≠ a := h (k, u) (by simp)
    unfold Memory.insert
    split
    · rename_i hak
      rw [List.pairwise_cons]
      refine ⟨?_, List.pairwise_cons.mpr hm⟩
      intro d hd
      rcases List.mem_cons.mp hd with rfl | hd
      · exact hak
      · exact Nat.lt_trans hak (hm.1 d hd)
    · rename_i hak
      rw [List.pairwise_cons]
      refine ⟨?_, ih hm.2 fun c hc => h c (by simp [hc])⟩
      intro d hd
      rcases (Memory.mem_insert m a v d).mp hd with rfl | hd
      · exact Nat.lt_of_le_of_ne (Nat.le_of_not_lt hak) hk
      · exact hm.1 d hd

/-- Every write keeps the canonical form. -/
theorem Memory.write_wf (m : List Host.Cell) (a : Nat) (v : Byte) (hm : Memory.wf m) (ha : a < 1048576) :
    Memory.wf (Memory.write m a v) := by
  have hp : (m.filter fun c => c.1 != a).Pairwise fun c d => c.1 < d.1 := hm.1.filter _
  have hin : ∀ c ∈ m.filter (fun c => c.1 != a), c ∈ m ∧ c.1 ≠ a := fun c hc => by
    simpa using List.mem_filter.mp hc
  unfold Memory.write
  split
  · exact ⟨hp, fun c hc => hm.2 c (hin c hc).1⟩
  · rename_i hv
    refine ⟨Memory.insert_rising _ _ _ hp fun c hc => (hin c hc).2, fun c hc => ?_⟩
    rcases (Memory.mem_insert _ _ _ _).mp hc with rfl | hc
    · exact ⟨ha, hv⟩
    · exact hm.2 c (hin c hc).1

/-- A write at a physical address keeps the canonical form. -/
theorem Memory.write_wf_phys (m : List Host.Cell) (pa : PAddr) (v : Byte) (hm : Memory.wf m) :
    Memory.wf (Memory.write m pa.toNat v) :=
  Memory.write_wf m pa.toNat v hm pa.isLt

/-- The memory after reset lists nothing, so it has the canonical form. -/
theorem Memory.reset_wf : Memory.wf State.reset.mem := ⟨List.Pairwise.nil, fun _ hc => nomatch hc⟩

end Sys2Proof.Machine
end

