-- ==== Sys2Proof/Laws/State.lean ====
section
/-! SUPPORT. What each field of the state is after an update: one lemma per field, so that no proof unfolds one. -/

namespace Sys2Proof.Machine

@[simp] theorem State.logCycle_AX (s : State) (c : BusCycle) : (s.logCycle c).AX = s.AX := rfl
@[simp] theorem State.logCycle_CX (s : State) (c : BusCycle) : (s.logCycle c).CX = s.CX := rfl
@[simp] theorem State.logCycle_DX (s : State) (c : BusCycle) : (s.logCycle c).DX = s.DX := rfl
@[simp] theorem State.logCycle_BX (s : State) (c : BusCycle) : (s.logCycle c).BX = s.BX := rfl
@[simp] theorem State.logCycle_SP (s : State) (c : BusCycle) : (s.logCycle c).SP = s.SP := rfl
@[simp] theorem State.logCycle_BP (s : State) (c : BusCycle) : (s.logCycle c).BP = s.BP := rfl
@[simp] theorem State.logCycle_SI (s : State) (c : BusCycle) : (s.logCycle c).SI = s.SI := rfl
@[simp] theorem State.logCycle_DI (s : State) (c : BusCycle) : (s.logCycle c).DI = s.DI := rfl
@[simp] theorem State.logCycle_ES (s : State) (c : BusCycle) : (s.logCycle c).ES = s.ES := rfl
@[simp] theorem State.logCycle_CS (s : State) (c : BusCycle) : (s.logCycle c).CS = s.CS := rfl
@[simp] theorem State.logCycle_SS (s : State) (c : BusCycle) : (s.logCycle c).SS = s.SS := rfl
@[simp] theorem State.logCycle_DS (s : State) (c : BusCycle) : (s.logCycle c).DS = s.DS := rfl
@[simp] theorem State.logCycle_IP (s : State) (c : BusCycle) : (s.logCycle c).IP = s.IP := rfl
@[simp] theorem State.logCycle_flags (s : State) (c : BusCycle) : (s.logCycle c).flags = s.flags := rfl
@[simp] theorem State.logCycle_mem (s : State) (c : BusCycle) : (s.logCycle c).mem = s.mem := rfl
@[simp] theorem State.logCycle_queue (s : State) (c : BusCycle) : (s.logCycle c).queue = s.queue := rfl
@[simp] theorem State.logCycle_nmiLatch (s : State) (c : BusCycle) : (s.logCycle c).nmiLatch = s.nmiLatch := rfl
@[simp] theorem State.logCycle_fullShadow (s : State) (c : BusCycle) : (s.logCycle c).fullShadow = s.fullShadow := rfl
@[simp] theorem State.logCycle_stiShadow (s : State) (c : BusCycle) : (s.logCycle c).stiShadow = s.stiShadow := rfl
@[simp] theorem State.logCycle_halted (s : State) (c : BusCycle) : (s.logCycle c).halted = s.halted := rfl
@[simp] theorem State.logCycle_waiting (s : State) (c : BusCycle) : (s.logCycle c).waiting = s.waiting := rfl
@[simp] theorem State.logCycle_ovr (s : State) (c : BusCycle) : (s.logCycle c).ovr = s.ovr := rfl
@[simp] theorem State.logCycle_rep (s : State) (c : BusCycle) : (s.logCycle c).rep = s.rep := rfl
@[simp] theorem State.logCycle_lock (s : State) (c : BusCycle) : (s.logCycle c).lock = s.lock := rfl
@[simp] theorem State.logCycle_repeating (s : State) (c : BusCycle) : (s.logCycle c).repeating = s.repeating := rfl
@[simp] theorem State.logCycle_busGranted (s : State) (c : BusCycle) : (s.logCycle c).busGranted = s.busGranted := rfl
@[simp] theorem State.logCycle_stalled (s : State) (c : BusCycle) : (s.logCycle c).stalled = s.stalled := rfl
@[simp] theorem State.logCycle_requests (s : State) (c : BusCycle) : (s.logCycle c).requests = s.requests := rfl
@[simp] theorem State.logCycle_trapDue (s : State) (c : BusCycle) : (s.logCycle c).trapDue = s.trapDue := rfl
@[simp] theorem State.logCycle_afterSeq (s : State) (c : BusCycle) : (s.logCycle c).afterSeq = s.afterSeq := rfl
@[simp] theorem State.logCycle_fresh (s : State) (c : BusCycle) : (s.logCycle c).fresh = s.fresh := rfl
@[simp] theorem State.logCycle_params (s : State) (c : BusCycle) : (s.logCycle c).params = s.params := rfl
@[simp] theorem State.logCycle_pins (s : State) (c : BusCycle) : (s.logCycle c).pins = s.pins := rfl
@[simp] theorem State.logCycle_env (s : State) (c : BusCycle) : (s.logCycle c).env = s.env := rfl
@[simp] theorem State.logCycle_gaps (s : State) (c : BusCycle) : (s.logCycle c).gaps = s.gaps := rfl
@[simp] theorem State.logCycle_portIn (s : State) (c : BusCycle) : (s.logCycle c).portIn = s.portIn := rfl
@[simp] theorem State.logCycle_devIn (s : State) (c : BusCycle) : (s.logCycle c).devIn = s.devIn := rfl
@[simp] theorem State.logCycle_bus (s : State) (c : BusCycle) : (s.logCycle c).bus = c :: s.bus := rfl
@[simp] theorem State.logCycle_draws (s : State) (c : BusCycle) : (s.logCycle c).draws = s.draws := rfl

@[simp] theorem State.jumpNear_AX (s : State) (ip : Word) : (s.jumpNear ip).AX = s.AX := rfl
@[simp] theorem State.jumpNear_CX (s : State) (ip : Word) : (s.jumpNear ip).CX = s.CX := rfl
@[simp] theorem State.jumpNear_DX (s : State) (ip : Word) : (s.jumpNear ip).DX = s.DX := rfl
@[simp] theorem State.jumpNear_BX (s : State) (ip : Word) : (s.jumpNear ip).BX = s.BX := rfl
@[simp] theorem State.jumpNear_SP (s : State) (ip : Word) : (s.jumpNear ip).SP = s.SP := rfl
@[simp] theorem State.jumpNear_BP (s : State) (ip : Word) : (s.jumpNear ip).BP = s.BP := rfl
@[simp] theorem State.jumpNear_SI (s : State) (ip : Word) : (s.jumpNear ip).SI = s.SI := rfl
@[simp] theorem State.jumpNear_DI (s : State) (ip : Word) : (s.jumpNear ip).DI = s.DI := rfl
@[simp] theorem State.jumpNear_ES (s : State) (ip : Word) : (s.jumpNear ip).ES = s.ES := rfl
@[simp] theorem State.jumpNear_CS (s : State) (ip : Word) : (s.jumpNear ip).CS = s.CS := rfl
@[simp] theorem State.jumpNear_SS (s : State) (ip : Word) : (s.jumpNear ip).SS = s.SS := rfl
@[simp] theorem State.jumpNear_DS (s : State) (ip : Word) : (s.jumpNear ip).DS = s.DS := rfl
@[simp] theorem State.jumpNear_IP (s : State) (ip : Word) : (s.jumpNear ip).IP = ip := rfl
@[simp] theorem State.jumpNear_flags (s : State) (ip : Word) : (s.jumpNear ip).flags = s.flags := rfl
@[simp] theorem State.jumpNear_mem (s : State) (ip : Word) : (s.jumpNear ip).mem = s.mem := rfl
@[simp] theorem State.jumpNear_queue (s : State) (ip : Word) : (s.jumpNear ip).queue = [] := rfl
@[simp] theorem State.jumpNear_nmiLatch (s : State) (ip : Word) : (s.jumpNear ip).nmiLatch = s.nmiLatch := rfl
@[simp] theorem State.jumpNear_fullShadow (s : State) (ip : Word) : (s.jumpNear ip).fullShadow = s.fullShadow := rfl
@[simp] theorem State.jumpNear_stiShadow (s : State) (ip : Word) : (s.jumpNear ip).stiShadow = s.stiShadow := rfl
@[simp] theorem State.jumpNear_halted (s : State) (ip : Word) : (s.jumpNear ip).halted = s.halted := rfl
@[simp] theorem State.jumpNear_waiting (s : State) (ip : Word) : (s.jumpNear ip).waiting = s.waiting := rfl
@[simp] theorem State.jumpNear_ovr (s : State) (ip : Word) : (s.jumpNear ip).ovr = s.ovr := rfl
@[simp] theorem State.jumpNear_rep (s : State) (ip : Word) : (s.jumpNear ip).rep = s.rep := rfl
@[simp] theorem State.jumpNear_lock (s : State) (ip : Word) : (s.jumpNear ip).lock = s.lock := rfl
@[simp] theorem State.jumpNear_repeating (s : State) (ip : Word) : (s.jumpNear ip).repeating = s.repeating := rfl
@[simp] theorem State.jumpNear_busGranted (s : State) (ip : Word) : (s.jumpNear ip).busGranted = s.busGranted := rfl
@[simp] theorem State.jumpNear_stalled (s : State) (ip : Word) : (s.jumpNear ip).stalled = s.stalled := rfl
@[simp] theorem State.jumpNear_requests (s : State) (ip : Word) : (s.jumpNear ip).requests = s.requests := rfl
@[simp] theorem State.jumpNear_trapDue (s : State) (ip : Word) : (s.jumpNear ip).trapDue = s.trapDue := rfl
@[simp] theorem State.jumpNear_afterSeq (s : State) (ip : Word) : (s.jumpNear ip).afterSeq = s.afterSeq := rfl
@[simp] theorem State.jumpNear_fresh (s : State) (ip : Word) : (s.jumpNear ip).fresh = s.fresh := rfl
@[simp] theorem State.jumpNear_params (s : State) (ip : Word) : (s.jumpNear ip).params = s.params := rfl
@[simp] theorem State.jumpNear_pins (s : State) (ip : Word) : (s.jumpNear ip).pins = s.pins := rfl
@[simp] theorem State.jumpNear_env (s : State) (ip : Word) : (s.jumpNear ip).env = s.env := rfl
@[simp] theorem State.jumpNear_gaps (s : State) (ip : Word) : (s.jumpNear ip).gaps = s.gaps := rfl
@[simp] theorem State.jumpNear_portIn (s : State) (ip : Word) : (s.jumpNear ip).portIn = s.portIn := rfl
@[simp] theorem State.jumpNear_devIn (s : State) (ip : Word) : (s.jumpNear ip).devIn = s.devIn := rfl
@[simp] theorem State.jumpNear_bus (s : State) (ip : Word) : (s.jumpNear ip).bus = s.bus := rfl
@[simp] theorem State.jumpNear_draws (s : State) (ip : Word) : (s.jumpNear ip).draws = s.draws := rfl

@[simp] theorem State.jumpFar_AX (s : State) (cs ip : Word) : (s.jumpFar cs ip).AX = s.AX := rfl
@[simp] theorem State.jumpFar_CX (s : State) (cs ip : Word) : (s.jumpFar cs ip).CX = s.CX := rfl
@[simp] theorem State.jumpFar_DX (s : State) (cs ip : Word) : (s.jumpFar cs ip).DX = s.DX := rfl
@[simp] theorem State.jumpFar_BX (s : State) (cs ip : Word) : (s.jumpFar cs ip).BX = s.BX := rfl
@[simp] theorem State.jumpFar_SP (s : State) (cs ip : Word) : (s.jumpFar cs ip).SP = s.SP := rfl
@[simp] theorem State.jumpFar_BP (s : State) (cs ip : Word) : (s.jumpFar cs ip).BP = s.BP := rfl
@[simp] theorem State.jumpFar_SI (s : State) (cs ip : Word) : (s.jumpFar cs ip).SI = s.SI := rfl
@[simp] theorem State.jumpFar_DI (s : State) (cs ip : Word) : (s.jumpFar cs ip).DI = s.DI := rfl
@[simp] theorem State.jumpFar_ES (s : State) (cs ip : Word) : (s.jumpFar cs ip).ES = s.ES := rfl
@[simp] theorem State.jumpFar_CS (s : State) (cs ip : Word) : (s.jumpFar cs ip).CS = cs := rfl
@[simp] theorem State.jumpFar_SS (s : State) (cs ip : Word) : (s.jumpFar cs ip).SS = s.SS := rfl
@[simp] theorem State.jumpFar_DS (s : State) (cs ip : Word) : (s.jumpFar cs ip).DS = s.DS := rfl
@[simp] theorem State.jumpFar_IP (s : State) (cs ip : Word) : (s.jumpFar cs ip).IP = ip := rfl
@[simp] theorem State.jumpFar_flags (s : State) (cs ip : Word) : (s.jumpFar cs ip).flags = s.flags := rfl
@[simp] theorem State.jumpFar_mem (s : State) (cs ip : Word) : (s.jumpFar cs ip).mem = s.mem := rfl
@[simp] theorem State.jumpFar_queue (s : State) (cs ip : Word) : (s.jumpFar cs ip).queue = [] := rfl
@[simp] theorem State.jumpFar_nmiLatch (s : State) (cs ip : Word) : (s.jumpFar cs ip).nmiLatch = s.nmiLatch := rfl
@[simp] theorem State.jumpFar_fullShadow (s : State) (cs ip : Word) : (s.jumpFar cs ip).fullShadow = s.fullShadow := rfl
@[simp] theorem State.jumpFar_stiShadow (s : State) (cs ip : Word) : (s.jumpFar cs ip).stiShadow = s.stiShadow := rfl
@[simp] theorem State.jumpFar_halted (s : State) (cs ip : Word) : (s.jumpFar cs ip).halted = s.halted := rfl
@[simp] theorem State.jumpFar_waiting (s : State) (cs ip : Word) : (s.jumpFar cs ip).waiting = s.waiting := rfl
@[simp] theorem State.jumpFar_ovr (s : State) (cs ip : Word) : (s.jumpFar cs ip).ovr = s.ovr := rfl
@[simp] theorem State.jumpFar_rep (s : State) (cs ip : Word) : (s.jumpFar cs ip).rep = s.rep := rfl
@[simp] theorem State.jumpFar_lock (s : State) (cs ip : Word) : (s.jumpFar cs ip).lock = s.lock := rfl
@[simp] theorem State.jumpFar_repeating (s : State) (cs ip : Word) : (s.jumpFar cs ip).repeating = s.repeating := rfl
@[simp] theorem State.jumpFar_busGranted (s : State) (cs ip : Word) : (s.jumpFar cs ip).busGranted = s.busGranted := rfl
@[simp] theorem State.jumpFar_stalled (s : State) (cs ip : Word) : (s.jumpFar cs ip).stalled = s.stalled := rfl
@[simp] theorem State.jumpFar_requests (s : State) (cs ip : Word) : (s.jumpFar cs ip).requests = s.requests := rfl
@[simp] theorem State.jumpFar_trapDue (s : State) (cs ip : Word) : (s.jumpFar cs ip).trapDue = s.trapDue := rfl
@[simp] theorem State.jumpFar_afterSeq (s : State) (cs ip : Word) : (s.jumpFar cs ip).afterSeq = s.afterSeq := rfl
@[simp] theorem State.jumpFar_fresh (s : State) (cs ip : Word) : (s.jumpFar cs ip).fresh = s.fresh := rfl
@[simp] theorem State.jumpFar_params (s : State) (cs ip : Word) : (s.jumpFar cs ip).params = s.params := rfl
@[simp] theorem State.jumpFar_pins (s : State) (cs ip : Word) : (s.jumpFar cs ip).pins = s.pins := rfl
@[simp] theorem State.jumpFar_env (s : State) (cs ip : Word) : (s.jumpFar cs ip).env = s.env := rfl
@[simp] theorem State.jumpFar_gaps (s : State) (cs ip : Word) : (s.jumpFar cs ip).gaps = s.gaps := rfl
@[simp] theorem State.jumpFar_portIn (s : State) (cs ip : Word) : (s.jumpFar cs ip).portIn = s.portIn := rfl
@[simp] theorem State.jumpFar_devIn (s : State) (cs ip : Word) : (s.jumpFar cs ip).devIn = s.devIn := rfl
@[simp] theorem State.jumpFar_bus (s : State) (cs ip : Word) : (s.jumpFar cs ip).bus = s.bus := rfl
@[simp] theorem State.jumpFar_draws (s : State) (cs ip : Word) : (s.jumpFar cs ip).draws = s.draws := rfl

@[simp] theorem State.beginInstr_AX (s : State) : (s.beginInstr).AX = s.AX := rfl
@[simp] theorem State.beginInstr_CX (s : State) : (s.beginInstr).CX = s.CX := rfl
@[simp] theorem State.beginInstr_DX (s : State) : (s.beginInstr).DX = s.DX := rfl
@[simp] theorem State.beginInstr_BX (s : State) : (s.beginInstr).BX = s.BX := rfl
@[simp] theorem State.beginInstr_SP (s : State) : (s.beginInstr).SP = s.SP := rfl
@[simp] theorem State.beginInstr_BP (s : State) : (s.beginInstr).BP = s.BP := rfl
@[simp] theorem State.beginInstr_SI (s : State) : (s.beginInstr).SI = s.SI := rfl
@[simp] theorem State.beginInstr_DI (s : State) : (s.beginInstr).DI = s.DI := rfl
@[simp] theorem State.beginInstr_ES (s : State) : (s.beginInstr).ES = s.ES := rfl
@[simp] theorem State.beginInstr_CS (s : State) : (s.beginInstr).CS = s.CS := rfl
@[simp] theorem State.beginInstr_SS (s : State) : (s.beginInstr).SS = s.SS := rfl
@[simp] theorem State.beginInstr_DS (s : State) : (s.beginInstr).DS = s.DS := rfl
@[simp] theorem State.beginInstr_IP (s : State) : (s.beginInstr).IP = s.IP := rfl
@[simp] theorem State.beginInstr_flags (s : State) : (s.beginInstr).flags = s.flags := rfl
@[simp] theorem State.beginInstr_mem (s : State) : (s.beginInstr).mem = s.mem := rfl
@[simp] theorem State.beginInstr_queue (s : State) : (s.beginInstr).queue = s.queue := rfl
@[simp] theorem State.beginInstr_nmiLatch (s : State) : (s.beginInstr).nmiLatch = s.nmiLatch := rfl
@[simp] theorem State.beginInstr_fullShadow (s : State) : (s.beginInstr).fullShadow = (s.fullShadow || s.fresh) := rfl
@[simp] theorem State.beginInstr_stiShadow (s : State) : (s.beginInstr).stiShadow = s.stiShadow := rfl
@[simp] theorem State.beginInstr_halted (s : State) : (s.beginInstr).halted = s.halted := rfl
@[simp] theorem State.beginInstr_waiting (s : State) : (s.beginInstr).waiting = false := rfl
@[simp] theorem State.beginInstr_ovr (s : State) : (s.beginInstr).ovr = s.ovr := rfl
@[simp] theorem State.beginInstr_rep (s : State) : (s.beginInstr).rep = s.rep := rfl
@[simp] theorem State.beginInstr_lock (s : State) : (s.beginInstr).lock = s.lock := rfl
@[simp] theorem State.beginInstr_repeating (s : State) : (s.beginInstr).repeating = s.repeating := rfl
@[simp] theorem State.beginInstr_busGranted (s : State) : (s.beginInstr).busGranted = s.busGranted := rfl
@[simp] theorem State.beginInstr_stalled (s : State) : (s.beginInstr).stalled = s.stalled := rfl
@[simp] theorem State.beginInstr_requests (s : State) : (s.beginInstr).requests = s.requests := rfl
@[simp] theorem State.beginInstr_trapDue (s : State) : (s.beginInstr).trapDue = s.flags.TF := rfl
@[simp] theorem State.beginInstr_afterSeq (s : State) : (s.beginInstr).afterSeq = false := rfl
@[simp] theorem State.beginInstr_fresh (s : State) : (s.beginInstr).fresh = false := rfl
@[simp] theorem State.beginInstr_params (s : State) : (s.beginInstr).params = s.params := rfl
@[simp] theorem State.beginInstr_pins (s : State) : (s.beginInstr).pins = s.pins := rfl
@[simp] theorem State.beginInstr_env (s : State) : (s.beginInstr).env = s.env := rfl
@[simp] theorem State.beginInstr_gaps (s : State) : (s.beginInstr).gaps = s.gaps := rfl
@[simp] theorem State.beginInstr_portIn (s : State) : (s.beginInstr).portIn = s.portIn := rfl
@[simp] theorem State.beginInstr_devIn (s : State) : (s.beginInstr).devIn = s.devIn := rfl
@[simp] theorem State.beginInstr_bus (s : State) : (s.beginInstr).bus = s.bus := rfl
@[simp] theorem State.beginInstr_draws (s : State) : (s.beginInstr).draws = s.draws := rfl

@[simp] theorem State.latchInside_AX (s : State) : (s.latchInside).AX = s.AX := rfl
@[simp] theorem State.latchInside_CX (s : State) : (s.latchInside).CX = s.CX := rfl
@[simp] theorem State.latchInside_DX (s : State) : (s.latchInside).DX = s.DX := rfl
@[simp] theorem State.latchInside_BX (s : State) : (s.latchInside).BX = s.BX := rfl
@[simp] theorem State.latchInside_SP (s : State) : (s.latchInside).SP = s.SP := rfl
@[simp] theorem State.latchInside_BP (s : State) : (s.latchInside).BP = s.BP := rfl
@[simp] theorem State.latchInside_SI (s : State) : (s.latchInside).SI = s.SI := rfl
@[simp] theorem State.latchInside_DI (s : State) : (s.latchInside).DI = s.DI := rfl
@[simp] theorem State.latchInside_ES (s : State) : (s.latchInside).ES = s.ES := rfl
@[simp] theorem State.latchInside_CS (s : State) : (s.latchInside).CS = s.CS := rfl
@[simp] theorem State.latchInside_SS (s : State) : (s.latchInside).SS = s.SS := rfl
@[simp] theorem State.latchInside_DS (s : State) : (s.latchInside).DS = s.DS := rfl
@[simp] theorem State.latchInside_IP (s : State) : (s.latchInside).IP = s.IP := rfl
@[simp] theorem State.latchInside_flags (s : State) : (s.latchInside).flags = s.flags := rfl
@[simp] theorem State.latchInside_mem (s : State) : (s.latchInside).mem = s.mem := rfl
@[simp] theorem State.latchInside_queue (s : State) : (s.latchInside).queue = s.queue := rfl
@[simp] theorem State.latchInside_fullShadow (s : State) : (s.latchInside).fullShadow = s.fullShadow := rfl
@[simp] theorem State.latchInside_stiShadow (s : State) : (s.latchInside).stiShadow = s.stiShadow := rfl
@[simp] theorem State.latchInside_halted (s : State) : (s.latchInside).halted = s.halted := rfl
@[simp] theorem State.latchInside_waiting (s : State) : (s.latchInside).waiting = s.waiting := rfl
@[simp] theorem State.latchInside_ovr (s : State) : (s.latchInside).ovr = s.ovr := rfl
@[simp] theorem State.latchInside_rep (s : State) : (s.latchInside).rep = s.rep := rfl
@[simp] theorem State.latchInside_lock (s : State) : (s.latchInside).lock = s.lock := rfl
@[simp] theorem State.latchInside_repeating (s : State) : (s.latchInside).repeating = s.repeating := rfl
@[simp] theorem State.latchInside_busGranted (s : State) : (s.latchInside).busGranted = s.busGranted := rfl
@[simp] theorem State.latchInside_stalled (s : State) : (s.latchInside).stalled = s.stalled := rfl
@[simp] theorem State.latchInside_requests (s : State) : (s.latchInside).requests = s.requests := rfl
@[simp] theorem State.latchInside_trapDue (s : State) : (s.latchInside).trapDue = s.trapDue := rfl
@[simp] theorem State.latchInside_afterSeq (s : State) : (s.latchInside).afterSeq = s.afterSeq := rfl
@[simp] theorem State.latchInside_fresh (s : State) : (s.latchInside).fresh = s.fresh := rfl
@[simp] theorem State.latchInside_params (s : State) : (s.latchInside).params = s.params := rfl
@[simp] theorem State.latchInside_pins (s : State) : (s.latchInside).pins = s.pins := rfl
@[simp] theorem State.latchInside_env (s : State) : (s.latchInside).env = s.env := rfl
@[simp] theorem State.latchInside_gaps (s : State) : (s.latchInside).gaps = s.gaps := rfl
@[simp] theorem State.latchInside_portIn (s : State) : (s.latchInside).portIn = s.portIn := rfl
@[simp] theorem State.latchInside_devIn (s : State) : (s.latchInside).devIn = s.devIn := rfl
@[simp] theorem State.latchInside_bus (s : State) : (s.latchInside).bus = s.bus := rfl
@[simp] theorem State.latchInside_draws (s : State) : (s.latchInside).draws = s.draws := rfl

@[simp] theorem State.storeByte_AX (s : State) (pa : PAddr) (v : Byte) : (s.storeByte pa v).AX = s.AX := rfl
@[simp] theorem State.storeByte_CX (s : State) (pa : PAddr) (v : Byte) : (s.storeByte pa v).CX = s.CX := rfl
@[simp] theorem State.storeByte_DX (s : State) (pa : PAddr) (v : Byte) : (s.storeByte pa v).DX = s.DX := rfl
@[simp] theorem State.storeByte_BX (s : State) (pa : PAddr) (v : Byte) : (s.storeByte pa v).BX = s.BX := rfl
@[simp] theorem State.storeByte_SP (s : State) (pa : PAddr) (v : Byte) : (s.storeByte pa v).SP = s.SP := rfl
@[simp] theorem State.storeByte_BP (s : State) (pa : PAddr) (v : Byte) : (s.storeByte pa v).BP = s.BP := rfl
@[simp] theorem State.storeByte_SI (s : State) (pa : PAddr) (v : Byte) : (s.storeByte pa v).SI = s.SI := rfl
@[simp] theorem State.storeByte_DI (s : State) (pa : PAddr) (v : Byte) : (s.storeByte pa v).DI = s.DI := rfl
@[simp] theorem State.storeByte_ES (s : State) (pa : PAddr) (v : Byte) : (s.storeByte pa v).ES = s.ES := rfl
@[simp] theorem State.storeByte_CS (s : State) (pa : PAddr) (v : Byte) : (s.storeByte pa v).CS = s.CS := rfl
@[simp] theorem State.storeByte_SS (s : State) (pa : PAddr) (v : Byte) : (s.storeByte pa v).SS = s.SS := rfl
@[simp] theorem State.storeByte_DS (s : State) (pa : PAddr) (v : Byte) : (s.storeByte pa v).DS = s.DS := rfl
@[simp] theorem State.storeByte_IP (s : State) (pa : PAddr) (v : Byte) : (s.storeByte pa v).IP = s.IP := rfl
@[simp] theorem State.storeByte_flags (s : State) (pa : PAddr) (v : Byte) : (s.storeByte pa v).flags = s.flags := rfl
@[simp] theorem State.storeByte_queue (s : State) (pa : PAddr) (v : Byte) : (s.storeByte pa v).queue = s.queue := rfl
@[simp] theorem State.storeByte_nmiLatch (s : State) (pa : PAddr) (v : Byte) :
    (s.storeByte pa v).nmiLatch = s.nmiLatch := rfl
@[simp] theorem State.storeByte_fullShadow (s : State) (pa : PAddr) (v : Byte) :
    (s.storeByte pa v).fullShadow = s.fullShadow := rfl
@[simp] theorem State.storeByte_stiShadow (s : State) (pa : PAddr) (v : Byte) :
    (s.storeByte pa v).stiShadow = s.stiShadow := rfl
@[simp] theorem State.storeByte_halted (s : State) (pa : PAddr) (v : Byte) : (s.storeByte pa v).halted = s.halted := rfl
@[simp] theorem State.storeByte_waiting (s : State) (pa : PAddr) (v : Byte) :
    (s.storeByte pa v).waiting = s.waiting := rfl
@[simp] theorem State.storeByte_ovr (s : State) (pa : PAddr) (v : Byte) : (s.storeByte pa v).ovr = s.ovr := rfl
@[simp] theorem State.storeByte_rep (s : State) (pa : PAddr) (v : Byte) : (s.storeByte pa v).rep = s.rep := rfl
@[simp] theorem State.storeByte_lock (s : State) (pa : PAddr) (v : Byte) : (s.storeByte pa v).lock = s.lock := rfl
@[simp] theorem State.storeByte_repeating (s : State) (pa : PAddr) (v : Byte) :
    (s.storeByte pa v).repeating = s.repeating := rfl
@[simp] theorem State.storeByte_busGranted (s : State) (pa : PAddr) (v : Byte) :
    (s.storeByte pa v).busGranted = s.busGranted := rfl
@[simp] theorem State.storeByte_stalled (s : State) (pa : PAddr) (v : Byte) :
    (s.storeByte pa v).stalled = s.stalled := rfl
@[simp] theorem State.storeByte_requests (s : State) (pa : PAddr) (v : Byte) :
    (s.storeByte pa v).requests = s.requests := rfl
@[simp] theorem State.storeByte_trapDue (s : State) (pa : PAddr) (v : Byte) :
    (s.storeByte pa v).trapDue = s.trapDue := rfl
@[simp] theorem State.storeByte_afterSeq (s : State) (pa : PAddr) (v : Byte) :
    (s.storeByte pa v).afterSeq = s.afterSeq := rfl
@[simp] theorem State.storeByte_fresh (s : State) (pa : PAddr) (v : Byte) : (s.storeByte pa v).fresh = s.fresh := rfl
@[simp] theorem State.storeByte_params (s : State) (pa : PAddr) (v : Byte) : (s.storeByte pa v).params = s.params := rfl
@[simp] theorem State.storeByte_pins (s : State) (pa : PAddr) (v : Byte) : (s.storeByte pa v).pins = s.pins := rfl
@[simp] theorem State.storeByte_env (s : State) (pa : PAddr) (v : Byte) : (s.storeByte pa v).env = s.env := rfl
@[simp] theorem State.storeByte_gaps (s : State) (pa : PAddr) (v : Byte) : (s.storeByte pa v).gaps = s.gaps := rfl
@[simp] theorem State.storeByte_portIn (s : State) (pa : PAddr) (v : Byte) : (s.storeByte pa v).portIn = s.portIn := rfl
@[simp] theorem State.storeByte_devIn (s : State) (pa : PAddr) (v : Byte) : (s.storeByte pa v).devIn = s.devIn := rfl
@[simp] theorem State.storeByte_bus (s : State) (pa : PAddr) (v : Byte) : (s.storeByte pa v).bus = s.bus := rfl
@[simp] theorem State.storeByte_draws (s : State) (pa : PAddr) (v : Byte) : (s.storeByte pa v).draws = s.draws := rfl

@[simp] theorem State.prefetchIf_AX (s : State) (c : Bool) : (s.prefetchIf c).AX = s.AX := rfl
@[simp] theorem State.prefetchIf_CX (s : State) (c : Bool) : (s.prefetchIf c).CX = s.CX := rfl
@[simp] theorem State.prefetchIf_DX (s : State) (c : Bool) : (s.prefetchIf c).DX = s.DX := rfl
@[simp] theorem State.prefetchIf_BX (s : State) (c : Bool) : (s.prefetchIf c).BX = s.BX := rfl
@[simp] theorem State.prefetchIf_SP (s : State) (c : Bool) : (s.prefetchIf c).SP = s.SP := rfl
@[simp] theorem State.prefetchIf_BP (s : State) (c : Bool) : (s.prefetchIf c).BP = s.BP := rfl
@[simp] theorem State.prefetchIf_SI (s : State) (c : Bool) : (s.prefetchIf c).SI = s.SI := rfl
@[simp] theorem State.prefetchIf_DI (s : State) (c : Bool) : (s.prefetchIf c).DI = s.DI := rfl
@[simp] theorem State.prefetchIf_ES (s : State) (c : Bool) : (s.prefetchIf c).ES = s.ES := rfl
@[simp] theorem State.prefetchIf_CS (s : State) (c : Bool) : (s.prefetchIf c).CS = s.CS := rfl
@[simp] theorem State.prefetchIf_SS (s : State) (c : Bool) : (s.prefetchIf c).SS = s.SS := rfl
@[simp] theorem State.prefetchIf_DS (s : State) (c : Bool) : (s.prefetchIf c).DS = s.DS := rfl
@[simp] theorem State.prefetchIf_IP (s : State) (c : Bool) : (s.prefetchIf c).IP = s.IP := rfl
@[simp] theorem State.prefetchIf_flags (s : State) (c : Bool) : (s.prefetchIf c).flags = s.flags := rfl
@[simp] theorem State.prefetchIf_mem (s : State) (c : Bool) : (s.prefetchIf c).mem = s.mem := rfl
@[simp] theorem State.prefetchIf_nmiLatch (s : State) (c : Bool) : (s.prefetchIf c).nmiLatch = s.nmiLatch := rfl
@[simp] theorem State.prefetchIf_fullShadow (s : State) (c : Bool) : (s.prefetchIf c).fullShadow = s.fullShadow := rfl
@[simp] theorem State.prefetchIf_stiShadow (s : State) (c : Bool) : (s.prefetchIf c).stiShadow = s.stiShadow := rfl
@[simp] theorem State.prefetchIf_halted (s : State) (c : Bool) : (s.prefetchIf c).halted = s.halted := rfl
@[simp] theorem State.prefetchIf_waiting (s : State) (c : Bool) : (s.prefetchIf c).waiting = s.waiting := rfl
@[simp] theorem State.prefetchIf_ovr (s : State) (c : Bool) : (s.prefetchIf c).ovr = s.ovr := rfl
@[simp] theorem State.prefetchIf_rep (s : State) (c : Bool) : (s.prefetchIf c).rep = s.rep := rfl
@[simp] theorem State.prefetchIf_lock (s : State) (c : Bool) : (s.prefetchIf c).lock = s.lock := rfl
@[simp] theorem State.prefetchIf_repeating (s : State) (c : Bool) : (s.prefetchIf c).repeating = s.repeating := rfl
@[simp] theorem State.prefetchIf_busGranted (s : State) (c : Bool) : (s.prefetchIf c).busGranted = s.busGranted := rfl
@[simp] theorem State.prefetchIf_stalled (s : State) (c : Bool) : (s.prefetchIf c).stalled = s.stalled := rfl
@[simp] theorem State.prefetchIf_requests (s : State) (c : Bool) : (s.prefetchIf c).requests = s.requests := rfl
@[simp] theorem State.prefetchIf_trapDue (s : State) (c : Bool) : (s.prefetchIf c).trapDue = s.trapDue := rfl
@[simp] theorem State.prefetchIf_afterSeq (s : State) (c : Bool) : (s.prefetchIf c).afterSeq = s.afterSeq := rfl
@[simp] theorem State.prefetchIf_fresh (s : State) (c : Bool) : (s.prefetchIf c).fresh = s.fresh := rfl
@[simp] theorem State.prefetchIf_params (s : State) (c : Bool) : (s.prefetchIf c).params = s.params := rfl
@[simp] theorem State.prefetchIf_pins (s : State) (c : Bool) : (s.prefetchIf c).pins = s.pins := rfl
@[simp] theorem State.prefetchIf_env (s : State) (c : Bool) : (s.prefetchIf c).env = s.env := rfl
@[simp] theorem State.prefetchIf_gaps (s : State) (c : Bool) : (s.prefetchIf c).gaps = s.gaps := rfl
@[simp] theorem State.prefetchIf_portIn (s : State) (c : Bool) : (s.prefetchIf c).portIn = s.portIn := rfl

@[simp] theorem State.gap_AX (s : State) (g : Gap) : (s.gap g).AX = s.AX := rfl
@[simp] theorem State.gap_CX (s : State) (g : Gap) : (s.gap g).CX = s.CX := rfl
@[simp] theorem State.gap_DX (s : State) (g : Gap) : (s.gap g).DX = s.DX := rfl
@[simp] theorem State.gap_BX (s : State) (g : Gap) : (s.gap g).BX = s.BX := rfl
@[simp] theorem State.gap_SP (s : State) (g : Gap) : (s.gap g).SP = s.SP := rfl
@[simp] theorem State.gap_BP (s : State) (g : Gap) : (s.gap g).BP = s.BP := rfl
@[simp] theorem State.gap_SI (s : State) (g : Gap) : (s.gap g).SI = s.SI := rfl
@[simp] theorem State.gap_DI (s : State) (g : Gap) : (s.gap g).DI = s.DI := rfl
@[simp] theorem State.gap_ES (s : State) (g : Gap) : (s.gap g).ES = s.ES := rfl
@[simp] theorem State.gap_CS (s : State) (g : Gap) : (s.gap g).CS = s.CS := rfl
@[simp] theorem State.gap_SS (s : State) (g : Gap) : (s.gap g).SS = s.SS := rfl
@[simp] theorem State.gap_DS (s : State) (g : Gap) : (s.gap g).DS = s.DS := rfl
@[simp] theorem State.gap_IP (s : State) (g : Gap) : (s.gap g).IP = s.IP := rfl
@[simp] theorem State.gap_flags (s : State) (g : Gap) : (s.gap g).flags = s.flags := rfl
@[simp] theorem State.gap_nmiLatch (s : State) (g : Gap) : (s.gap g).nmiLatch = s.nmiLatch := rfl
@[simp] theorem State.gap_fullShadow (s : State) (g : Gap) : (s.gap g).fullShadow = s.fullShadow := rfl
@[simp] theorem State.gap_stiShadow (s : State) (g : Gap) : (s.gap g).stiShadow = s.stiShadow := rfl
@[simp] theorem State.gap_halted (s : State) (g : Gap) : (s.gap g).halted = s.halted := rfl
@[simp] theorem State.gap_waiting (s : State) (g : Gap) : (s.gap g).waiting = s.waiting := rfl
@[simp] theorem State.gap_ovr (s : State) (g : Gap) : (s.gap g).ovr = s.ovr := rfl
@[simp] theorem State.gap_rep (s : State) (g : Gap) : (s.gap g).rep = s.rep := rfl
@[simp] theorem State.gap_lock (s : State) (g : Gap) : (s.gap g).lock = s.lock := rfl
@[simp] theorem State.gap_repeating (s : State) (g : Gap) : (s.gap g).repeating = s.repeating := rfl
@[simp] theorem State.gap_busGranted (s : State) (g : Gap) : (s.gap g).busGranted = s.busGranted := rfl
@[simp] theorem State.gap_stalled (s : State) (g : Gap) : (s.gap g).stalled = s.stalled := rfl
@[simp] theorem State.gap_trapDue (s : State) (g : Gap) : (s.gap g).trapDue = s.trapDue := rfl
@[simp] theorem State.gap_afterSeq (s : State) (g : Gap) : (s.gap g).afterSeq = s.afterSeq := rfl
@[simp] theorem State.gap_fresh (s : State) (g : Gap) : (s.gap g).fresh = s.fresh := rfl
@[simp] theorem State.gap_params (s : State) (g : Gap) : (s.gap g).params = s.params := rfl
@[simp] theorem State.gap_pins (s : State) (g : Gap) : (s.gap g).pins = s.pins := rfl
@[simp] theorem State.gap_env (s : State) (g : Gap) : (s.gap g).env = s.env := rfl
@[simp] theorem State.gap_portIn (s : State) (g : Gap) : (s.gap g).portIn = s.portIn := rfl

@[simp] theorem State.countDown_AX (s : State) : (s.countDown).AX = s.AX := rfl
@[simp] theorem State.countDown_CX (s : State) : (s.countDown).CX = s.CX - 1#16 := rfl
@[simp] theorem State.countDown_DX (s : State) : (s.countDown).DX = s.DX := rfl
@[simp] theorem State.countDown_BX (s : State) : (s.countDown).BX = s.BX := rfl
@[simp] theorem State.countDown_SP (s : State) : (s.countDown).SP = s.SP := rfl
@[simp] theorem State.countDown_BP (s : State) : (s.countDown).BP = s.BP := rfl
@[simp] theorem State.countDown_SI (s : State) : (s.countDown).SI = s.SI := rfl
@[simp] theorem State.countDown_DI (s : State) : (s.countDown).DI = s.DI := rfl
@[simp] theorem State.countDown_ES (s : State) : (s.countDown).ES = s.ES := rfl
@[simp] theorem State.countDown_CS (s : State) : (s.countDown).CS = s.CS := rfl
@[simp] theorem State.countDown_SS (s : State) : (s.countDown).SS = s.SS := rfl
@[simp] theorem State.countDown_DS (s : State) : (s.countDown).DS = s.DS := rfl
@[simp] theorem State.countDown_IP (s : State) : (s.countDown).IP = s.IP := rfl
@[simp] theorem State.countDown_flags (s : State) : (s.countDown).flags = s.flags := rfl
@[simp] theorem State.countDown_mem (s : State) : (s.countDown).mem = s.mem := rfl
@[simp] theorem State.countDown_queue (s : State) : (s.countDown).queue = s.queue := rfl
@[simp] theorem State.countDown_nmiLatch (s : State) : (s.countDown).nmiLatch = s.nmiLatch := rfl
@[simp] theorem State.countDown_fullShadow (s : State) : (s.countDown).fullShadow = s.fullShadow := rfl
@[simp] theorem State.countDown_stiShadow (s : State) : (s.countDown).stiShadow = s.stiShadow := rfl
@[simp] theorem State.countDown_halted (s : State) : (s.countDown).halted = s.halted := rfl
@[simp] theorem State.countDown_waiting (s : State) : (s.countDown).waiting = s.waiting := rfl
@[simp] theorem State.countDown_ovr (s : State) : (s.countDown).ovr = s.ovr := rfl
@[simp] theorem State.countDown_rep (s : State) : (s.countDown).rep = s.rep := rfl
@[simp] theorem State.countDown_lock (s : State) : (s.countDown).lock = s.lock := rfl
@[simp] theorem State.countDown_repeating (s : State) : (s.countDown).repeating = s.repeating := rfl
@[simp] theorem State.countDown_busGranted (s : State) : (s.countDown).busGranted = s.busGranted := rfl
@[simp] theorem State.countDown_stalled (s : State) : (s.countDown).stalled = s.stalled := rfl
@[simp] theorem State.countDown_requests (s : State) : (s.countDown).requests = s.requests := rfl
@[simp] theorem State.countDown_trapDue (s : State) : (s.countDown).trapDue = s.trapDue := rfl
@[simp] theorem State.countDown_afterSeq (s : State) : (s.countDown).afterSeq = s.afterSeq := rfl
@[simp] theorem State.countDown_fresh (s : State) : (s.countDown).fresh = s.fresh := rfl
@[simp] theorem State.countDown_params (s : State) : (s.countDown).params = s.params := rfl
@[simp] theorem State.countDown_pins (s : State) : (s.countDown).pins = s.pins := rfl
@[simp] theorem State.countDown_env (s : State) : (s.countDown).env = s.env := rfl
@[simp] theorem State.countDown_gaps (s : State) : (s.countDown).gaps = s.gaps := rfl
@[simp] theorem State.countDown_portIn (s : State) : (s.countDown).portIn = s.portIn := rfl
@[simp] theorem State.countDown_devIn (s : State) : (s.countDown).devIn = s.devIn := rfl
@[simp] theorem State.countDown_bus (s : State) : (s.countDown).bus = s.bus := rfl
@[simp] theorem State.countDown_draws (s : State) : (s.countDown).draws = s.draws := rfl

theorem State.undefCF_eq (s : State) :
    s.undefCF = { s with flags := { s.flags with CF := Config.freeBit s.draws }, draws := s.draws + 1 } := rfl
theorem State.undefPF_eq (s : State) :
    s.undefPF = { s with flags := { s.flags with PF := Config.freeBit s.draws }, draws := s.draws + 1 } := rfl
theorem State.undefAF_eq (s : State) :
    s.undefAF = { s with flags := { s.flags with AF := Config.freeBit s.draws }, draws := s.draws + 1 } := rfl
theorem State.undefZF_eq (s : State) :
    s.undefZF = { s with flags := { s.flags with ZF := Config.freeBit s.draws }, draws := s.draws + 1 } := rfl
theorem State.undefSF_eq (s : State) :
    s.undefSF = { s with flags := { s.flags with SF := Config.freeBit s.draws }, draws := s.draws + 1 } := rfl
theorem State.undefOF_eq (s : State) :
    s.undefOF = { s with flags := { s.flags with OF := Config.freeBit s.draws }, draws := s.draws + 1 } := rfl

/-! A register written and read. -/

@[simp] theorem State.reg16_setReg16_same (s : State) (r : Reg16) (v : Word) : (s.setReg16 r v).reg16 r = v := by
  cases r <;> rfl

theorem State.reg16_setReg16_other (s : State) (r q : Reg16) (v : Word) (h : q ≠ r) :
    (s.setReg16 r v).reg16 q = s.reg16 q := by
  cases r <;> cases q <;> first | rfl | exact absurd rfl h

@[simp] theorem lowByte_wordOf (lo hi : Byte) : lowByte (wordOf lo hi) = lo := by
  unfold lowByte wordOf
  exact BitVec.extractLsb'_append_eq_right

@[simp] theorem highByte_wordOf (lo hi : Byte) : highByte (wordOf lo hi) = hi := by
  unfold highByte wordOf
  exact BitVec.extractLsb'_append_eq_left

@[simp] theorem wordOf_bytes (w : Word) : wordOf (lowByte w) (highByte w) = w := by
  unfold wordOf lowByte highByte
  apply BitVec.eq_of_getLsbD_eq
  intro i hi
  simp only [BitVec.getLsbD_append, BitVec.getLsbD_extractLsb']
  by_cases h : i < 8
  · simp [h]
  · have : i - 8 < 8 := by omega
    have h8 : 8 + (i - 8) = i := by omega
    simp [h, this, h8]

@[simp] theorem State.reg8_setReg8_same (s : State) (r : Reg8) (v : Byte) : (s.setReg8 r v).reg8 r = v := by
  cases r <;> simp [State.setReg8, State.reg8]

theorem State.reg8_setReg8_other (s : State) (r q : Reg8) (v : Byte) (h : q ≠ r) :
    (s.setReg8 r v).reg8 q = s.reg8 q := by
  cases r <;> cases q <;> first | exact absurd rfl h | simp [State.setReg8, State.reg8]

@[simp] theorem State.reg_setReg_same (s : State) (w : Width) (n : RegNum) (v : BitVec w.bits) :
    (s.setReg w n v).reg w n = v := by
  cases w
  · exact State.reg8_setReg8_same s n.reg8 v
  · exact State.reg16_setReg16_same s n.reg16 v

/-- A write of a register changes nothing but the eight general registers. -/
theorem State.setReg_form (s : State) (w : Width) (n : RegNum) (v : BitVec w.bits) :
    ∃ ax cx dx bx sp bp si di, s.setReg w n v =
      { s with AX := ax, CX := cx, DX := dx, BX := bx, SP := sp, BP := bp, SI := si, DI := di } := by
  cases w <;> cases n <;> exact ⟨_, _, _, _, _, _, _, _, rfl⟩

/-- A write of a word register changes nothing but the eight general registers. -/
theorem State.setReg16_form (s : State) (r : Reg16) (v : Word) :
    ∃ ax cx dx bx sp bp si di, s.setReg16 r v =
      { s with AX := ax, CX := cx, DX := dx, BX := bx, SP := sp, BP := bp, SI := si, DI := di } := by
  cases r <;> exact ⟨_, _, _, _, _, _, _, _, rfl⟩

/-- A write of a byte register changes nothing but the eight general registers. -/
theorem State.setReg8_form (s : State) (r : Reg8) (v : Byte) :
    ∃ ax cx dx bx sp bp si di, s.setReg8 r v =
      { s with AX := ax, CX := cx, DX := dx, BX := bx, SP := sp, BP := bp, SI := si, DI := di } := by
  cases r <;> exact ⟨_, _, _, _, _, _, _, _, rfl⟩

/-- A write of a segment register changes nothing but ES, SS and DS. -/
theorem State.setDataSReg_form (s : State) (sr : DataSReg) (v : Word) :
    ∃ es ss ds, s.setDataSReg sr v = { s with ES := es, SS := ss, DS := ds } := by
  cases sr <;> exact ⟨_, _, _, rfl⟩

end Sys2Proof.Machine
end

