-- ==== Sys2Proof/Laws/Bus.lean ====
section
/-! SUPPORT. What comes between the bus cycles of a step, and the cycles themselves: prefetches, other masters, one
byte read and one byte stored. -/

namespace Sys2Proof.Machine

/-! ## Traffic: what bus cycles do to the state -/

/-- From `s` to `t` there were bus cycles and what comes between them, nothing else: memory, the queue, the trace, the
devices' answers, the requests and the draw counter may differ. -/
structure Traffic (s t : State) : Prop where
  form : t =
    { s with
      mem := t.mem, queue := t.queue, bus := t.bus, devIn := t.devIn, draws := t.draws, gaps := t.gaps
      requests := t.requests }
  wf : Memory.wf s.mem → Memory.wf t.mem
  queue : s.queue.length ≤ 4 → t.queue.length ≤ 4
  masters : ∀ x ∈ t.masterBytes, x ∈ s.masterBytes
  undisturbed : s.Undisturbed → t.Undisturbed

theorem Traffic.refl (s : State) : Traffic s s := ⟨rfl, id, id, fun _ h => h, id⟩

theorem Traffic.trans {s t u : State} (h : Traffic s t) (k : Traffic t u) : Traffic s u := by
  refine ⟨?_, k.wf ∘ h.wf, k.queue ∘ h.queue, fun x hx => h.masters x (k.masters x hx),
    k.undisturbed ∘ h.undisturbed⟩
  have hf := h.form
  have kf := k.form
  rw [hf] at kf
  exact kf

/-- From `s` to `t` there was traffic that stored nothing of the chip's own. -/
structure Reading (s t : State) : Prop extends Traffic s t where
  same : SameMemory s t

theorem SameMemory.refl (s : State) : SameMemory s s := fun _ => .inl rfl

theorem SameMemory.trans {s t u : State} (h : SameMemory s t) (k : SameMemory t u)
    (m : ∀ x ∈ t.masterBytes, x ∈ s.masterBytes) : SameMemory s u := fun a => by
  rcases k a with e | e
  · rw [e]
    exact h a
  · exact .inr (m _ e)

theorem Reading.refl (s : State) : Reading s s := ⟨Traffic.refl s, SameMemory.refl s⟩

theorem Reading.trans {s t u : State} (h : Reading s t) (k : Reading t u) : Reading s u :=
  ⟨h.toTraffic.trans k.toTraffic, h.same.trans k.same h.masters⟩

/-- Memory after stores that come after a reading. -/
theorem MemoryAfter.before {s t u : State} {f : PAddr → Option Byte} (h : Reading s t) (k : MemoryAfter t u f) :
    MemoryAfter s u f := fun a => by
  have hp : t.params = s.params := by rw [h.form]
  rcases k a with e | e
  · rw [e]
    cases hf : f a with
    | none =>
      rcases h.same a with e | e
      · exact .inl e
      · exact .inr e
    | some b =>
      simp only [hp]
      split
      · exact .inl rfl
      · exact h.same a
  · exact .inr (h.masters _ e)

/-- Memory after stores and something that stores nothing. -/
theorem MemoryAfter.after {s t u : State} {f : PAddr → Option Byte} (k : MemoryAfter s t f) (l : SameMemory t u)
    (m : ∀ x ∈ t.masterBytes, x ∈ s.masterBytes) : MemoryAfter s u f := fun a => by
  rcases l a with e | e
  · rw [e]
    exact k a
  · exact .inr (m _ e)

theorem State.masterBytes_undisturbed {s : State} (h : s.Undisturbed) : s.masterBytes = [] := by
  unfold State.masterBytes
  rcases h with h | ⟨h, k⟩
  · simp [h]
  · simp [h, k]

/-! ## What traffic leaves alone -/

theorem Traffic.AX {s t : State} (h : Traffic s t) : t.AX = s.AX := by rw [h.form]
theorem Traffic.CX {s t : State} (h : Traffic s t) : t.CX = s.CX := by rw [h.form]
theorem Traffic.DX {s t : State} (h : Traffic s t) : t.DX = s.DX := by rw [h.form]
theorem Traffic.BX {s t : State} (h : Traffic s t) : t.BX = s.BX := by rw [h.form]
theorem Traffic.SP {s t : State} (h : Traffic s t) : t.SP = s.SP := by rw [h.form]
theorem Traffic.BP {s t : State} (h : Traffic s t) : t.BP = s.BP := by rw [h.form]
theorem Traffic.SI {s t : State} (h : Traffic s t) : t.SI = s.SI := by rw [h.form]
theorem Traffic.DI {s t : State} (h : Traffic s t) : t.DI = s.DI := by rw [h.form]
theorem Traffic.ES {s t : State} (h : Traffic s t) : t.ES = s.ES := by rw [h.form]
theorem Traffic.CS {s t : State} (h : Traffic s t) : t.CS = s.CS := by rw [h.form]
theorem Traffic.SS {s t : State} (h : Traffic s t) : t.SS = s.SS := by rw [h.form]
theorem Traffic.DS {s t : State} (h : Traffic s t) : t.DS = s.DS := by rw [h.form]
theorem Traffic.IP {s t : State} (h : Traffic s t) : t.IP = s.IP := by rw [h.form]
theorem Traffic.flags {s t : State} (h : Traffic s t) : t.flags = s.flags := by rw [h.form]
theorem Traffic.nmiLatch {s t : State} (h : Traffic s t) : t.nmiLatch = s.nmiLatch := by rw [h.form]
theorem Traffic.fullShadow {s t : State} (h : Traffic s t) : t.fullShadow = s.fullShadow := by rw [h.form]
theorem Traffic.stiShadow {s t : State} (h : Traffic s t) : t.stiShadow = s.stiShadow := by rw [h.form]
theorem Traffic.halted {s t : State} (h : Traffic s t) : t.halted = s.halted := by rw [h.form]
theorem Traffic.waiting {s t : State} (h : Traffic s t) : t.waiting = s.waiting := by rw [h.form]
theorem Traffic.ovr {s t : State} (h : Traffic s t) : t.ovr = s.ovr := by rw [h.form]
theorem Traffic.rep {s t : State} (h : Traffic s t) : t.rep = s.rep := by rw [h.form]
theorem Traffic.lock {s t : State} (h : Traffic s t) : t.lock = s.lock := by rw [h.form]
theorem Traffic.repeating {s t : State} (h : Traffic s t) : t.repeating = s.repeating := by rw [h.form]
theorem Traffic.busGranted {s t : State} (h : Traffic s t) : t.busGranted = s.busGranted := by rw [h.form]
theorem Traffic.stalled {s t : State} (h : Traffic s t) : t.stalled = s.stalled := by rw [h.form]
theorem Traffic.trapDue {s t : State} (h : Traffic s t) : t.trapDue = s.trapDue := by rw [h.form]
theorem Traffic.afterSeq {s t : State} (h : Traffic s t) : t.afterSeq = s.afterSeq := by rw [h.form]
theorem Traffic.fresh {s t : State} (h : Traffic s t) : t.fresh = s.fresh := by rw [h.form]
theorem Traffic.params {s t : State} (h : Traffic s t) : t.params = s.params := by rw [h.form]
theorem Traffic.pins {s t : State} (h : Traffic s t) : t.pins = s.pins := by rw [h.form]
theorem Traffic.env {s t : State} (h : Traffic s t) : t.env = s.env := by rw [h.form]
theorem Traffic.portIn {s t : State} (h : Traffic s t) : t.portIn = s.portIn := by rw [h.form]

theorem Traffic.sameRegs {s t : State} (h : Traffic s t) : SameRegs s t := fun r => by
  rw [h.form]
  cases r <;> rfl

theorem Traffic.sameControl {s t : State} (h : Traffic s t) : SameControl s t := by
  rw [h.form]
  exact ⟨⟨rfl, rfl, rfl⟩, rfl, rfl, ⟨rfl, rfl, rfl, rfl⟩, ⟨rfl, rfl, rfl, rfl, rfl⟩, ⟨rfl, rfl, rfl, rfl, rfl⟩, rfl,
    rfl, rfl, rfl⟩

theorem Traffic.remembers {s t : State} (h : Traffic s t) (a : PAddr) : t.Remembers a ↔ s.Remembers a := by
  unfold State.Remembers
  rw [h.params]

/-! ## Reads -/

@[simp] theorem State.readCycle_fst (s : State) (k : BusKind) (sg : SegStatus) (pa : PAddr) :
    (s.readCycle k sg pa).1 = s.physByte pa := rfl

theorem State.readCycle_reading (s : State) (k : BusKind) (sg : SegStatus) (pa : PAddr) :
    Reading s (s.readCycle k sg pa).2 := ⟨⟨rfl, id, id, fun _ h => h, id⟩, SameMemory.refl s⟩

theorem State.logCycle_reading (s : State) (c : BusCycle) : Reading s (s.logCycle c) :=
  ⟨⟨rfl, id, id, fun _ h => h, id⟩, SameMemory.refl s⟩

/-- Where memory answers, a read cycle gives what memory holds. -/
theorem State.physByte_remembers {s : State} {pa : PAddr} (h : s.Remembers pa) : s.physByte pa = s.byteAt pa := by
  unfold State.physByte State.byteAt
  rcases h with h | h <;> rw [h]

/-! ## The queue -/

theorem State.prefetchOne_reading (s : State) (h : s.queue.length < 4) :
    Reading s s.prefetchOne ∧ s.prefetchOne.queue.length = s.queue.length + 1 :=
  ⟨⟨⟨rfl, id, fun _ => by show (s.queue ++ [_]).length ≤ 4; simp; omega, fun _ h => h, id⟩, SameMemory.refl s⟩,
    by show (s.queue ++ [_]).length = _; simp⟩

theorem State.prefetchMany_reading (n : Nat) (s : State) (h : s.queue.length + n ≤ 4) :
    Reading s (State.prefetchMany n s) := by
  induction n generalizing s with
  | zero => exact Reading.refl s
  | succ n ih =>
    obtain ⟨h1, h2⟩ := State.prefetchOne_reading s (by omega)
    exact h1.trans (ih s.prefetchOne (by omega))

/-- Whatever the queue prefetches, nothing else changes but the trace, the devices' answers and the draw counter. -/
theorem State.prefetchIf_reading (s : State) (c : Bool) : Reading s (s.prefetchIf c) := by
  refine ⟨⟨rfl, id, fun h => ?_, fun _ h => h, id⟩, SameMemory.refl s⟩
  unfold State.prefetchIf
  simp only []
  split
  · have hm : Config.freeChoice s.draws % (4 - s.queue.length + 1) < 4 - s.queue.length + 1 :=
      Nat.mod_lt _ (by omega)
    exact (State.prefetchMany_reading _ { s with draws := s.draws + 1 } (by simp only []; omega)).queue h
  · exact h

theorem State.prefetch_reading (s : State) : Reading s s.prefetch := s.prefetchIf_reading true

theorem State.prefetch_eq (s : State) :
    s.prefetch =
      { s with
        queue := s.prefetch.queue, bus := s.prefetch.bus, devIn := s.prefetch.devIn, draws := s.prefetch.draws } := rfl

/-- The trace of one prefetch run grows by instruction fetches alone. -/
theorem State.prefetchMany_dataCycles (n : Nat) (s : State) : (State.prefetchMany n s).dataCycles = s.dataCycles := by
  induction n generalizing s with
  | zero => rfl
  | succ n ih => exact (ih s.prefetchOne).trans rfl

@[simp] theorem State.prefetchIf_dataCycles (s : State) (c : Bool) : (s.prefetchIf c).dataCycles = s.dataCycles := by
  unfold State.prefetchIf
  simp only []
  split
  · exact State.prefetchMany_dataCycles _ { s with draws := s.draws + 1 }
  · rfl

/-! ## Other masters -/

theorem State.storeByte_form (s : State) (pa : PAddr) (v : Byte) :
    ∃ m, s.storeByte pa v = { s with mem := m } ∧ (Memory.wf s.mem → Memory.wf m) := by
  refine ⟨_, rfl, fun h => ?_⟩
  split
  · exact Memory.write_wf_phys s.mem pa v h
  · exact h
  · exact h
  · exact h

/-- A byte stored is there where RAM answers, and no other byte differs (R64, R79). -/
theorem State.byteAt_storeByte (s : State) (pa a : PAddr) (v : Byte) :
    (s.storeByte pa v).byteAt a =
      if a = pa then (if kindAt s.params.memMap a = .ram then v else s.byteAt a) else s.byteAt a := by
  unfold State.storeByte State.byteAt
  by_cases ha : a = pa
  · subst ha
    cases hk : kindAt s.params.memMap a <;> simp
  · have hne : a.toNat ≠ pa.toNat := fun he => ha (BitVec.eq_of_toNat_eq he)
    cases hk : kindAt s.params.memMap pa <;> simp [ha, Memory.read_write_other _ _ _ _ hne.symm]

theorem State.storeByte_traffic (s : State) (pa : PAddr) (v : Byte) : Traffic s (s.storeByte pa v) := by
  obtain ⟨m, h, hw⟩ := State.storeByte_form s pa v
  rw [h]
  exact ⟨rfl, hw, id, fun _ h => h, id⟩

@[simp] theorem State.byteAt_prefetchIf (s : State) (c : Bool) (a : PAddr) :
    (s.prefetchIf c).byteAt a = s.byteAt a := rfl

theorem State.honour_traffic (c : Bool) (ws : List (PAddr × Byte)) (s : State) :
    Traffic s (State.honour c ws s) ∧ (State.honour c ws s).gaps = s.gaps
      ∧ (State.honour c ws s).requests = s.requests ∧ (State.honour c ws s).dataCycles = s.dataCycles
      ∧ ∀ a, (State.honour c ws s).byteAt a = s.byteAt a ∨ (a, (State.honour c ws s).byteAt a) ∈ ws := by
  induction ws generalizing s with
  | nil => exact ⟨Traffic.refl s, rfl, rfl, rfl, fun _ => .inl rfl⟩
  | cons w ws ih =>
    obtain ⟨i1, i2, i3, i4, i5⟩ := ih ((s.storeByte w.1 w.2).prefetchIf c)
    refine ⟨((s.storeByte_traffic w.1 w.2).trans (State.prefetchIf_reading _ c).toTraffic).trans i1, i2, i3,
      i4.trans (State.prefetchIf_dataCycles _ c), fun a => ?_⟩
    show (State.honour c ws ((s.storeByte w.1 w.2).prefetchIf c)).byteAt a = _
      ∨ (a, (State.honour c ws ((s.storeByte w.1 w.2).prefetchIf c)).byteAt a) ∈ _
    rcases i5 a with e | e
    · rw [e, State.byteAt_prefetchIf, State.byteAt_storeByte]
      by_cases ha : a = w.1
      · subst ha
        split
        · split
          · exact .inr (List.mem_cons_self ..)
          · exact .inl rfl
        · exact .inl rfl
      · simp [ha]
    · exact .inr (List.mem_cons_of_mem _ e)

theorem mem_inOrder {l : List BusRequest} {r : BusRequest} (h : r ∈ inOrder l) : r ∈ l := by
  simp only [inOrder, List.mem_append, List.mem_filter] at h
  rcases h with h | h <;> exact h.1

/-- Where the bus may be given away LOCK does not hold it (R82). -/
theorem State.mayGrant_lock {s : State} {g : Gap} (h : s.mayGrant g = true) : s.lockActive = false := by
  cases g with
  | free => simpa [State.mayGrant] using h
  | wordHalf =>
    have : s.params.mode = .min := by simpa [State.mayGrant] using h
    simp [State.lockActive, this]
  | acknowledge => simp [State.mayGrant] at h

theorem State.asked_flatten (s : State) :
    s.requests ++ s.gaps.flatten = (s.requests ++ s.gaps.headD []) ++ s.gaps.tail.flatten := by
  cases s.gaps with
  | nil => simp
  | cons g gs => simp

theorem State.mem_masterBytes {s : State} {x : PAddr × Byte} :
    x ∈ s.masterBytes ↔ s.params.otherMasters = true ∧ s.lockActive = false
      ∧ x ∈ (s.requests ++ s.gaps.flatten).flatMap fun r => r.writes := by
  unfold State.masterBytes
  cases s.params.otherMasters <;> cases s.lockActive <;> simp

/-- What an arbitration does: other masters may have written, nothing of the chip's own is stored (R80, R82). -/
theorem State.arbitrate_reading (s : State) (g : Gap) : Reading s (s.arbitrate g) := by
  have hm : ∀ x ∈ (s.arbitrate g).masterBytes, x ∈ s.masterBytes := by
    intro x hx
    rw [State.mem_masterBytes] at hx ⊢
    obtain ⟨h1, h2, h3⟩ := hx
    refine ⟨h1, h2, ?_⟩
    rw [State.asked_flatten, List.flatMap_append, List.mem_append]
    change x ∈ ((if s.mayGrant g then [] else s.requests ++ s.gaps.headD []) ++ s.gaps.tail.flatten).flatMap _ at h3
    rw [List.flatMap_append, List.mem_append] at h3
    rcases h3 with h3 | h3
    · split at h3
      · simp at h3
      · exact .inl h3
    · exact .inr h3
  have hu : s.Undisturbed → (s.arbitrate g).Undisturbed := by
    rintro (h | ⟨h, k⟩)
    · exact .inl h
    · refine .inr ⟨?_, ?_⟩
      · show (if s.mayGrant g then [] else s.requests ++ s.gaps.headD []) = []
        rw [h, k]
        simp
      · show s.gaps.tail = []
        rw [k]
        rfl
  by_cases hg : (s.mayGrant g && s.params.otherMasters) = true
  · obtain ⟨i1, _, _, _, i5⟩ := State.honour_traffic (g == .free)
      ((inOrder (s.requests ++ s.gaps.headD [])).flatMap fun r => r.writes) s
    have ht : (if (s.mayGrant g && s.params.otherMasters) = true then State.honour (g == .free)
        ((inOrder (s.requests ++ s.gaps.headD [])).flatMap fun r => r.writes) s else s) = State.honour (g == .free)
        ((inOrder (s.requests ++ s.gaps.headD [])).flatMap fun r => r.writes) s := if_pos hg
    refine ⟨⟨rfl, ?_, ?_, hm, hu⟩, fun a => ?_⟩
    · show _ → Memory.wf (State.mem (if _ then _ else _))
      rw [ht]
      exact i1.wf
    · show _ → (State.queue (if _ then _ else _)).length ≤ 4
      rw [ht]
      exact i1.queue
    · show Memory.read (State.mem (if _ then _ else _)) _ = _ ∨ (a, Memory.read (State.mem (if _ then _ else _)) _) ∈ _
      rw [ht]
      rcases i5 a with e | e
      · exact .inl e
      · refine .inr ?_
        simp only [Bool.and_eq_true] at hg
        rw [State.mem_masterBytes]
        refine ⟨hg.2, State.mayGrant_lock hg.1, ?_⟩
        rw [State.asked_flatten, List.flatMap_append, List.mem_append]
        obtain ⟨r, hr, hx⟩ := List.mem_flatMap.mp e
        exact .inl (List.mem_flatMap.mpr ⟨r, mem_inOrder hr, hx⟩)
  · have ht : (if (s.mayGrant g && s.params.otherMasters) = true then State.honour (g == .free)
        ((inOrder (s.requests ++ s.gaps.headD [])).flatMap fun r => r.writes) s else s) = s := if_neg hg
    refine ⟨⟨rfl, ?_, ?_, hm, hu⟩, fun a => .inl ?_⟩
    · show _ → Memory.wf (State.mem (if _ then _ else _))
      rw [ht]
      exact id
    · show _ → (State.queue (if _ then _ else _)).length ≤ 4
      rw [ht]
      exact id
    · show Memory.read (State.mem (if _ then _ else _)) _ = _
      rw [ht]
      rfl

theorem State.arbitrate_dataCycles (s : State) (g : Gap) : (s.arbitrate g).dataCycles = s.dataCycles := by
  show (State.bus (if _ then _ else _)).filter _ = _
  split
  · exact (State.honour_traffic _ _ s).2.2.2.1
  · rfl

/-- What comes before a bus cycle: prefetches and other masters, nothing of the chip's own. -/
theorem State.gap_reading (s : State) (g : Gap) : Reading s (s.gap g) :=
  (s.prefetchIf_reading _).trans (State.arbitrate_reading _ g)

@[simp] theorem State.gap_dataCycles (s : State) (g : Gap) : (s.gap g).dataCycles = s.dataCycles :=
  (State.arbitrate_dataCycles _ g).trans (State.prefetchIf_dataCycles s _)

/-- Where nobody asks for the bus, an arbitration changes nothing. -/
theorem State.arbitrate_quiet (s : State) (g : Gap) (h : s.requests = []) (k : s.gaps = []) : s.arbitrate g = s := by
  have hh : ∀ c, State.honour c [] s = s := fun _ => rfl
  unfold State.arbitrate
  simp only [h, k, inOrder, List.headD_nil, List.append_nil, List.filter_nil, List.flatMap_nil, hh, ite_self,
    List.tail_nil]
  cases s
  simp_all

/-! ## One cycle with what comes before it -/

theorem State.readPhys_reading (s : State) (g : Gap) (sg : SegStatus) (pa : PAddr) :
    Reading s (s.readPhys g sg pa).2 := (s.gap_reading g).trans (State.readCycle_reading _ _ sg pa)

/-- Where memory answers, a read gives a byte the address can hold (R64, R80). -/
theorem State.readPhys_mayHold (s : State) (g : Gap) (sg : SegStatus) (pa : PAddr) (h : s.Remembers pa) :
    s.MayHold pa (s.readPhys g sg pa).1 := by
  show s.MayHold pa ((s.gap g).physByte pa)
  rw [State.physByte_remembers (s := s.gap g) h]
  exact (s.gap_reading g).same pa

/-- What may be held after a reading may be held before it. -/
theorem Reading.mayHold {s t : State} (h : Reading s t) {a : PAddr} {b : Byte} (k : t.MayHold a b) : s.MayHold a b := by
  rcases k with e | e
  · rw [e]
    exact h.same a
  · exact .inr (h.masters _ e)

theorem State.writePhys_traffic (s : State) (g : Gap) (sg : SegStatus) (pa : PAddr) (v : Byte) :
    Traffic s (s.writePhys g sg pa v) :=
  ((s.gap_reading g).toTraffic.trans (State.storeByte_traffic _ pa v)).trans ⟨rfl, id, id, fun _ h => h, id⟩

/-- A byte stored at one address, none elsewhere. -/
def storedAt (pa : PAddr) (v : Byte) (a : PAddr) : Option Byte := if a = pa then some v else none

theorem State.storeByte_after (s : State) (pa : PAddr) (v : Byte) : MemoryAfter s (s.storeByte pa v) (storedAt pa v) :=
  fun a => by
    refine .inl ?_
    rw [State.byteAt_storeByte]
    unfold storedAt
    by_cases h : a = pa <;> simp [h]

theorem State.writePhys_after (s : State) (g : Gap) (sg : SegStatus) (pa : PAddr) (v : Byte) :
    MemoryAfter s (s.writePhys g sg pa v) (storedAt pa v) :=
  (MemoryAfter.before (s.gap_reading g) (State.storeByte_after _ pa v)).after
    (u := s.writePhys g sg pa v) (SameMemory.refl _)
    fun x hx => (s.gap_reading g).masters x ((State.storeByte_traffic (s.gap g) pa v).masters x hx)

end Sys2Proof.Machine
end

