-- ==== Sys2Proof/Laws/Decode.lean ====
section
/-! SUPPORT. The small lemmas of the decoder and the encoder: a field read from a byte that was put together from
fields is that field, and each operand read from its own bytes is that operand. -/

namespace Sys2Proof

open Bit

/-! ## Bits of a byte -/

theorem bitOf_byteOf (b7 b6 b5 b4 b3 b2 b1 b0 : Bit) :
    (bitOf (byteOf b7 b6 b5 b4 b3 b2 b1 b0) 7 = b7 ∧ bitOf (byteOf b7 b6 b5 b4 b3 b2 b1 b0) 6 = b6)
      ∧ (bitOf (byteOf b7 b6 b5 b4 b3 b2 b1 b0) 5 = b5 ∧ bitOf (byteOf b7 b6 b5 b4 b3 b2 b1 b0) 4 = b4)
      ∧ (bitOf (byteOf b7 b6 b5 b4 b3 b2 b1 b0) 3 = b3 ∧ bitOf (byteOf b7 b6 b5 b4 b3 b2 b1 b0) 2 = b2)
      ∧ bitOf (byteOf b7 b6 b5 b4 b3 b2 b1 b0) 1 = b1 ∧ bitOf (byteOf b7 b6 b5 b4 b3 b2 b1 b0) 0 = b0 := by
  cases b7 <;> cases b6 <;> cases b5 <;> cases b4 <;> cases b3 <;> cases b2 <;> cases b1 <;> cases b0 <;> decide

@[simp] theorem bitOf7_byteOf (b7 b6 b5 b4 b3 b2 b1 b0 : Bit) : bitOf (byteOf b7 b6 b5 b4 b3 b2 b1 b0) 7 = b7 :=
  (bitOf_byteOf b7 b6 b5 b4 b3 b2 b1 b0).1.1

@[simp] theorem bitOf6_byteOf (b7 b6 b5 b4 b3 b2 b1 b0 : Bit) : bitOf (byteOf b7 b6 b5 b4 b3 b2 b1 b0) 6 = b6 :=
  (bitOf_byteOf b7 b6 b5 b4 b3 b2 b1 b0).1.2

@[simp] theorem bitOf5_byteOf (b7 b6 b5 b4 b3 b2 b1 b0 : Bit) : bitOf (byteOf b7 b6 b5 b4 b3 b2 b1 b0) 5 = b5 :=
  (bitOf_byteOf b7 b6 b5 b4 b3 b2 b1 b0).2.1.1

@[simp] theorem bitOf4_byteOf (b7 b6 b5 b4 b3 b2 b1 b0 : Bit) : bitOf (byteOf b7 b6 b5 b4 b3 b2 b1 b0) 4 = b4 :=
  (bitOf_byteOf b7 b6 b5 b4 b3 b2 b1 b0).2.1.2

@[simp] theorem bitOf3_byteOf (b7 b6 b5 b4 b3 b2 b1 b0 : Bit) : bitOf (byteOf b7 b6 b5 b4 b3 b2 b1 b0) 3 = b3 :=
  (bitOf_byteOf b7 b6 b5 b4 b3 b2 b1 b0).2.2.1.1

@[simp] theorem bitOf2_byteOf (b7 b6 b5 b4 b3 b2 b1 b0 : Bit) : bitOf (byteOf b7 b6 b5 b4 b3 b2 b1 b0) 2 = b2 :=
  (bitOf_byteOf b7 b6 b5 b4 b3 b2 b1 b0).2.2.1.2

@[simp] theorem bitOf1_byteOf (b7 b6 b5 b4 b3 b2 b1 b0 : Bit) : bitOf (byteOf b7 b6 b5 b4 b3 b2 b1 b0) 1 = b1 :=
  (bitOf_byteOf b7 b6 b5 b4 b3 b2 b1 b0).2.2.2.1

@[simp] theorem bitOf0_byteOf (b7 b6 b5 b4 b3 b2 b1 b0 : Bit) : bitOf (byteOf b7 b6 b5 b4 b3 b2 b1 b0) 0 = b0 :=
  (bitOf_byteOf b7 b6 b5 b4 b3 b2 b1 b0).2.2.2.2

/-- A byte is its eight bits. -/
theorem byteOf_bitOf (b : Byte) :
    byteOf (bitOf b 7) (bitOf b 6) (bitOf b 5) (bitOf b 4) (bitOf b 3) (bitOf b 2) (bitOf b 1) (bitOf b 0) = b := by
  revert b
  decide

/-! ## Fields -/

@[simp] theorem bits3Of_toBits (x : Bits3) : bits3Of x.toBits.1 x.toBits.2.1 x.toBits.2.2 = x := by cases x <;> rfl

@[simp] theorem toBits_bits3Of (a b c : Bit) : (bits3Of a b c).toBits = (a, b, c) := by
  cases a <;> cases b <;> cases c <;> rfl

@[simp] theorem RegNum.ofBits_toBits3 (x : RegNum) : RegNum.ofBits x.toBits3 = x := by cases x <;> rfl

@[simp] theorem RegNum.toBits3_ofBits (x : Bits3) : (RegNum.ofBits x).toBits3 = x := by cases x <;> rfl

@[simp] theorem RegNum.reg16_ofBits_toBits3 (x : Reg16) : (RegNum.ofBits x.toBits3).reg16 = x := by cases x <;> rfl

@[simp] theorem RegNum.toBits3_reg16_ofBits (x : Bits3) : (RegNum.ofBits x).reg16.toBits3 = x := by cases x <;> rfl

@[simp] theorem EaBase.ofBits_toBits3 (x : EaBase) : EaBase.ofBits x.toBits3 = x := by cases x <;> rfl

@[simp] theorem EaBase.toBits3_ofBits (x : Bits3) : (EaBase.ofBits x).toBits3 = x := by cases x <;> rfl

@[simp] theorem widthOf_bitOfWidth (x : Width) : widthOf (bitOfWidth x) = x := by cases x <;> rfl

@[simp] theorem bitOfWidth_widthOf (x : Bit) : bitOfWidth (widthOf x) = x := by cases x <;> rfl

@[simp] theorem dirOf_bitOfDir (x : Dir) : dirOf (bitOfDir x) = x := by cases x <;> rfl

@[simp] theorem bitOfDir_dirOf (x : Bit) : bitOfDir (dirOf x) = x := by cases x <;> rfl

@[simp] theorem countOf_bitOfCount (x : Count) : countOf (bitOfCount x) = x := by cases x <;> rfl

@[simp] theorem bitOfCount_countOf (x : Bit) : bitOfCount (countOf x) = x := by cases x <;> rfl

@[simp] theorem toBool_bitOfBool (x : Bool) : (bitOfBool x).toBool = x := by cases x <;> rfl

@[simp] theorem bitOfBool_toBool (x : Bit) : bitOfBool x.toBool = x := by cases x <;> rfl

@[simp] theorem regField_secondByte (a b : Bit) (m r : Bits3) : regField (secondByte a b m r) = m := by
  simp [regField, secondByte]

@[simp] theorem rmField_secondByte (a b : Bit) (m r : Bits3) : rmField (secondByte a b m r) = r := by
  simp [rmField, secondByte]

/-- A second byte is its mod, middle field and r/m. -/
theorem secondByte_fields (b : Byte) : secondByte (bitOf b 7) (bitOf b 6) (regField b) (rmField b) = b := by
  simp only [secondByte, regField, rmField, toBits_bits3Of]
  exact byteOf_bitOf b

/-! ## Operands -/

@[simp] theorem takeWord_bytesOfWord (w : Word) (r : List Byte) : takeWord (bytesOfWord w ++ r) = .ok (w, r) := by
  simp [takeWord, bytesOfWord]

@[simp] theorem takeImm_encodeImm (m : Imm) (r : List Byte) : takeImm m.width (encodeImm m ++ r) = .ok (m, r) := by
  cases m <;> simp [takeImm, encodeImm, Imm.width, takeByte, parseMap]

/-- An operand r/m is read back from its second byte and displacement. -/
theorem takeRM_encodeRM (rm : RM) (h : rm.wf) (mid : Bits3) (r : List Byte) :
    ∃ second tl, encodeRM mid rm ++ r = second :: tl ∧ takeRM second tl = .ok (rm, r) ∧ regField second = mid := by
  cases rm with
  | reg n => exact ⟨_, _, rfl, by simp [takeRM, secondByte, rmField], by simp⟩
  | mem m =>
    cases m with
    | direct a => exact ⟨_, _, rfl, by simp [takeRM, secondByte, rmField, parseMap], by simp⟩
    | based b d =>
      cases d with
      | none =>
        refine ⟨_, _, rfl, ?_, by simp⟩
        cases b <;> simp_all [takeRM, secondByte, rmField, parseMap, RM.wf, MemOp.wf] <;> rfl
      | d8 x => exact ⟨_, _, rfl, by simp [takeRM, secondByte, rmField, parseMap, takeByte], by simp⟩
      | d16 x => exact ⟨_, _, rfl, by simp [takeRM, secondByte, rmField, parseMap], by simp⟩

/-! ## Lengths -/

@[simp] theorem length_bytesOfWord (w : Word) : (bytesOfWord w).length = 2 := rfl

theorem length_encodeImm (m : Imm) : 1 ≤ (encodeImm m).length ∧ (encodeImm m).length ≤ 2 := by
  cases m <;> simp [encodeImm]

theorem length_encodeImmSW (m : ImmSW) : 1 ≤ (encodeImmSW m).length ∧ (encodeImmSW m).length ≤ 2 := by
  cases m <;> simp [encodeImmSW]

theorem length_encodeMem (mid : Bits3) (m : MemOp) :
    1 ≤ (encodeMem mid m).length ∧ (encodeMem mid m).length ≤ 3 := by
  cases m with
  | direct a => simp [encodeMem]
  | based b d => cases d <;> simp [encodeMem]

theorem length_encodeRM (mid : Bits3) (rm : RM) : 1 ≤ (encodeRM mid rm).length ∧ (encodeRM mid rm).length ≤ 3 := by
  cases rm with
  | reg n => simp [encodeRM]
  | mem m => exact length_encodeMem mid m

end Sys2Proof
end

