-- ==== Sys2Proof/Laws/Ops.lean ====
section
/-! SUPPORT. For each shared operation, once, everything it can do. -/

namespace Sys2Proof.Machine

/-! ## Reads -/

theorem State.memRead_reading (s : State) (sr : SReg) (seg off : Word) (w : Width) :
    Reading s (s.memRead sr seg off w).2 := by
  cases w with
  | byte => exact State.readPhys_reading s .free _ _
  | word => exact (State.readPhys_reading s .free _ _).trans (State.readPhys_reading _ .wordHalf _ _)

/-- Where memory answers, a read gives what memory holds or what another master has written. -/
theorem State.memRead_reads (s : State) (sr : SReg) (seg off : Word) (w : Width) :
    Reads s seg off w (s.memRead sr seg off w).1 := by
  cases w with
  | byte => exact State.readPhys_mayHold s .free (segStatusOf sr) (phys seg off)
  | word =>
    refine ⟨fun h => ?_, fun h => ?_⟩
    · show s.MayHold _ (lowByte (wordOf _ _))
      rw [lowByte_wordOf]
      exact State.readPhys_mayHold s .free (segStatusOf sr) (phys seg off) h
    · show s.MayHold _ (highByte (wordOf _ _))
      rw [highByte_wordOf]
      have hr := State.readPhys_reading s .free (segStatusOf sr) (phys seg off)
      exact hr.mayHold (State.readPhys_mayHold _ .wordHalf (segStatusOf sr) _ ((hr.remembers _).mpr h))

/-- A read after a reading is a read before it. -/
theorem Reads.before {s t : State} {seg off : Word} {w : Width} {v : BitVec w.bits} (h : Reading s t)
    (k : Reads t seg off w v) : Reads s seg off w v := by
  cases w with
  | byte => exact fun hr => h.mayHold (k ((h.remembers _).mpr hr))
  | word =>
    exact ⟨fun hr => h.mayHold (k.1 ((h.remembers _).mpr hr)), fun hr => h.mayHold (k.2 ((h.remembers _).mpr hr))⟩

theorem State.readLoc_reading (s : State) (w : Width) (l : Loc) : Reading s (s.readLoc w l).2 := by
  cases l with
  | reg n => exact Reading.refl s
  | mem sr seg off => exact State.memRead_reading s sr seg off w

/-- An operand read is the operand's value (R117). -/
theorem State.readLoc_is (s : State) (w : Width) (l : Loc) : OperandIs s w l (s.readLoc w l).1 := by
  cases l with
  | reg n => rfl
  | mem sr seg off => exact State.memRead_reads s sr seg off w

theorem State.readPointer_reading (s : State) (m : MemOp) : Reading s (s.readPointer m).2.2 :=
  (State.memRead_reading s (s.segOf m) (s.sreg (s.segOf m)) (s.ea m) .word).trans (State.memRead_reading _ _ _ _ _)

/-- A far pointer's two words are at EA and EA + 2 (R176, R334). -/
theorem State.readPointer_reads (s : State) (m : MemOp) :
    Reads s (s.segValue m) (s.ea m) .word (s.readPointer m).1
      ∧ Reads s (s.segValue m) (s.ea m + 2#16) .word (s.readPointer m).2.1 :=
  ⟨State.memRead_reads s (s.segOf m) (s.sreg (s.segOf m)) (s.ea m) .word,
    (State.memRead_reads _ (s.segOf m) (s.sreg (s.segOf m)) (s.ea m + 2#16) .word).before
      (State.memRead_reading s (s.segOf m) (s.sreg (s.segOf m)) (s.ea m) .word)⟩

/-- A pop is a reading that moves SP (R69). -/
theorem State.pop16_form (s : State) : ∃ t, Reading s t ∧ s.pop16.2 = { t with SP := s.SP + 2#16 } :=
  ⟨_, State.memRead_reading s .ss s.SS s.SP .word, rfl⟩

/-- A pop delivers the word at SS:SP (R69). -/
theorem State.pop16_reads (s : State) : Reads s s.SS s.SP .word s.pop16.1 := State.memRead_reads s .ss s.SS s.SP .word

theorem State.readVector_reading (s : State) (t : Byte) (k : Nat) : Reading s (s.readVector t k).2 :=
  (State.readPhys_reading s .free _ _).trans (State.readPhys_reading _ .wordHalf _ _)

/-! ## Ports -/

/-- Traffic does not depend on what the ports will answer. -/
theorem Reading.withPortIn {s t : State} (h : Reading s t) (p : List Byte) :
    Reading { s with portIn := p } { t with portIn := p } :=
  ⟨⟨by rw [h.form], h.wf, h.queue, h.masters, h.undisturbed⟩, h.same⟩

theorem State.ioReadByte_form (s : State) (g : Gap) (port : Word) :
    Reading { s with portIn := s.portIn.tail } (s.ioReadByte g port).2 :=
  ((s.gap_reading g).withPortIn s.portIn.tail).trans
    ⟨⟨rfl, id, id, fun _ h => h, id⟩, SameMemory.refl { s.gap g with portIn := s.portIn.tail }⟩

/-- Reading a port uses up answers and is otherwise a reading (R75). -/
theorem State.ioRead_form (s : State) (port : Word) (w : Width) :
    Reading { s with portIn := (s.ioRead port w).2.portIn } (s.ioRead port w).2 := by
  cases w with
  | byte => exact State.ioReadByte_form s .free port
  | word =>
    have h1 := State.ioReadByte_form s .free port
    have h2 := State.ioReadByte_form (s.ioReadByte .free port).2 .wordHalf (port + 1#16)
    have h3 := (h1.withPortIn ((s.ioReadByte .free port).2.portIn.tail)).trans h2
    exact h3

theorem State.ioWrite_reading (s : State) (port : Word) (w : Width) (v : BitVec w.bits) :
    Reading s (s.ioWrite port w v) := by
  have h : ∀ (s : State) g port v, Reading s (s.ioWriteByte g port v) := fun s g port v =>
    (s.gap_reading g).trans ⟨⟨rfl, id, id, fun _ h => h, id⟩, SameMemory.refl (s.gap g)⟩
  cases w with
  | byte => exact h s .free port v
  | word => exact (h s .free port (lowByte v)).trans (h _ .wordHalf _ _)

/-! ## Writes -/

theorem State.memWrite_traffic (s : State) (sr : SReg) (seg off : Word) (w : Width) (v : BitVec w.bits) :
    Traffic s (s.memWrite sr seg off w v) := by
  cases w with
  | byte => exact State.writePhys_traffic s .free _ _ v
  | word => exact (State.writePhys_traffic s .free _ _ _).trans (State.writePhys_traffic _ .wordHalf _ _ _)

/-- The two bytes of a word never share an address. -/
theorem phys_succ_ne (seg off : Word) : phys seg (off + 1#16) ≠ phys seg off := by
  unfold phys
  intro h
  have h := congrArg BitVec.toNat h
  simp only [BitVec.toNat_ofNat, BitVec.toNat_add] at h
  have := seg.isLt
  have := off.isLt
  omega

/-- Stores one after another: where the second stores, its byte, else the first's. -/
theorem MemoryAfter.trans {s t u : State} {f g : PAddr → Option Byte} (h : MemoryAfter s t f) (k : MemoryAfter t u g)
    (hp : t.params = s.params) (m : ∀ x ∈ t.masterBytes, x ∈ s.masterBytes) :
    MemoryAfter s u fun a => (g a).or (f a) := fun a => by
  rcases k a with e | e
  · cases hg : g a with
    | none =>
      simp only [hg, Option.none_or] at e ⊢
      rw [e]
      exact h a
    | some b =>
      simp only [hg, hp, Option.some_or] at e ⊢
      by_cases hk : kindAt s.params.memMap a = .ram
      · simp only [if_pos hk] at e ⊢
        exact .inl e
      · simp only [if_neg hk] at e ⊢
        rw [e]
        rcases h a with e' | e'
        · left
          rw [e']
          cases f a <;> simp [hk]
        · exact .inr e'
  · exact .inr (m _ e)

/-- A store changes the bytes of the store alone, and only where RAM answers. -/
theorem State.memWrite_stores (s : State) (sr : SReg) (seg off : Word) (w : Width) (v : BitVec w.bits) :
    Stores s (s.memWrite sr seg off w v) seg off w v := by
  cases w with
  | byte => exact State.writePhys_after s .free (segStatusOf sr) (phys seg off) v
  | word =>
    have h := MemoryAfter.trans (State.writePhys_after s .free (segStatusOf sr) (phys seg off) (lowByte v))
      (State.writePhys_after _ .wordHalf (segStatusOf sr) (phys seg (off + 1#16)) (highByte v))
      (State.writePhys_traffic s .free _ _ _).params (State.writePhys_traffic s .free _ _ _).masters
    have he : (fun a => (storedAt (phys seg (off + 1#16)) (highByte v) a).or (storedAt (phys seg off) (lowByte v) a))
        = storedByte seg off .word v := by
      funext a
      unfold storedAt storedByte
      by_cases h1 : a = phys seg off
      · simp [h1, (phys_succ_ne seg off).symm]
      · by_cases h2 : a = phys seg (off + 1#16) <;> simp [h1, h2]
        exact fun h => absurd h (phys_succ_ne seg off)
    rw [he] at h
    exact h

/-- A write of an operand changes the general registers, or is traffic. -/
theorem State.writeLoc_form (s : State) (w : Width) (l : Loc) (v : BitVec w.bits) :
    ∃ ax cx dx bx sp bp si di, Traffic
      { s with AX := ax, CX := cx, DX := dx, BX := bx, SP := sp, BP := bp, SI := si, DI := di } (s.writeLoc w l v) := by
  cases l with
  | reg n =>
    obtain ⟨ax, cx, dx, bx, sp, bp, si, di, h⟩ := State.setReg_form s w n v
    exact ⟨ax, cx, dx, bx, sp, bp, si, di, by rw [← h]; exact Traffic.refl _⟩
  | mem sr seg off => exact ⟨s.AX, s.CX, s.DX, s.BX, s.SP, s.BP, s.SI, s.DI, State.memWrite_traffic s sr seg off w v⟩

/-- A write of an operand writes that operand and nothing else among registers and memory. -/
theorem State.writeLoc_writes (s : State) (w : Width) (l : Loc) (v : BitVec w.bits) :
    WritesLoc s (s.writeLoc w l v) w l v := by
  cases l with
  | reg n =>
    refine ⟨fun _ => rfl, fun a => .inl ?_⟩
    obtain ⟨_, _, _, _, _, _, _, _, h⟩ := State.setReg_form s w n v
    show (s.setReg w n v).byteAt a = _
    rw [h]
    rfl
  | mem sr seg off =>
    exact ⟨(State.memWrite_traffic s sr seg off w v).sameRegs, State.memWrite_stores s sr seg off w v⟩

/-! ## The stack -/

theorem State.pushOf_form (s : State) (f : State → Word) : Traffic { s with SP := s.SP - 2#16 } (s.pushOf f) :=
  State.memWrite_traffic { s with SP := s.SP - 2#16 } .ss s.SS (s.SP - 2#16) .word (f { s with SP := s.SP - 2#16 })

theorem State.push16_form (s : State) (v : Word) : Traffic { s with SP := s.SP - 2#16 } (s.push16 v) :=
  State.pushOf_form s _

/-- A push stores its word at the new SS:SP and nothing else (R68). -/
theorem State.pushOf_pushes (s : State) (f : State → Word) :
    Pushes s (s.pushOf f) [f { s with SP := s.SP - 2#16 }] := by
  have hs := State.memWrite_stores { s with SP := s.SP - 2#16 } .ss s.SS (s.SP - 2#16) .word
    (f { s with SP := s.SP - 2#16 })
  have h := State.pushOf_form s f
  refine ⟨h.SP, fun r hr => ?_, fun a => ?_⟩
  · rw [h.sameRegs r]
    cases r <;> first | rfl | exact absurd (by simp) hr
  · have ha := hs a
    simp only [pushedByte, Option.none_or]
    exact ha

theorem State.push16_pushes (s : State) (v : Word) : Pushes s (s.push16 v) [v] := State.pushOf_pushes s _

/-! ## Interrupts -/

/-- Traffic does not depend on the flags IF and TF. -/
theorem Traffic.withFlags {s t : State} (h : Traffic s t) (f : Flags) :
    Traffic { s with flags := f } { t with flags := f } :=
  ⟨by rw [h.form], h.wf, h.queue, h.masters, h.undisturbed⟩

/-- Traffic does not depend on SP. -/
theorem Traffic.withSP {s t : State} (h : Traffic s t) (sp : Word) : Traffic { s with SP := sp } { t with SP := sp } :=
  ⟨by rw [h.form], h.wf, h.queue, h.masters, h.undisturbed⟩

theorem Reading.withSP {s t : State} (h : Reading s t) (sp : Word) : Reading { s with SP := sp } { t with SP := sp } :=
  ⟨h.toTraffic.withSP sp, h.same⟩

/-- The frame with the pushed values read from the state before it. -/
theorem State.pushFrame_eq (s : State) (ip : Word) :
    s.pushFrame ip = (State.push16 { s.push16 (s.flags.image s.params.flagsX) with
      flags := { s.flags with IF := false, TF := false } } s.CS).push16 ip := by
  have h1 := State.push16_form s (s.flags.image s.params.flagsX)
  have hcs : (s.push16 (s.flags.image s.params.flagsX)).CS = s.CS := h1.CS
  have hf : (s.push16 (s.flags.image s.params.flagsX)).flags = s.flags := h1.flags
  unfold State.pushFrame
  simp only [hcs, hf]

/-- The three pushes move SP by six and clear IF and TF, and are otherwise traffic (R440). -/
theorem State.pushFrame_form (s : State) (ip : Word) :
    Traffic { s with SP := s.SP - 2#16 - 2#16 - 2#16, flags := { s.flags with IF := false, TF := false } }
      (s.pushFrame ip) := by
  have h1 := State.push16_form s (s.flags.image s.params.flagsX)
  have key : ∀ u : State,
      Traffic { s with SP := s.SP - 2#16, flags := { s.flags with IF := false, TF := false } } u →
      Traffic { s with SP := s.SP - 2#16 - 2#16 - 2#16, flags := { s.flags with IF := false, TF := false } }
        ((u.push16 s.CS).push16 ip) := by
    intro u h
    have h2 := State.push16_form u s.CS
    have h3 := State.push16_form (u.push16 s.CS) ip
    have e2 : u.SP = s.SP - 2#16 := h.SP
    have e3 : (u.push16 s.CS).SP = s.SP - 2#16 - 2#16 := h2.SP.trans (congrArg (· - 2#16) e2)
    rw [e2] at h2
    rw [e3] at h3
    exact ((h.withSP (s.SP - 2#16 - 2#16)).trans h2).withSP (s.SP - 2#16 - 2#16 - 2#16) |>.trans h3
  have k := key _ (h1.withFlags { s.flags with IF := false, TF := false })
  rw [State.pushFrame_eq]
  exact k

/-- The interrupt sequence is traffic that moves SP by six and clears IF and TF, after which CS:IP are new, the queue
is empty and halt, wait, repetition and prefixes are over; nothing else (R440). Where the pushes miss the pointer,
CS:IP are it. -/
theorem State.interrupt_form (s : State) (t : Byte) (ip : Word) :
    ∃ u cs' ip' d, s.interrupt t ip =
        { u with
          CS := cs', IP := ip', draws := d, queue := [], halted := false, waiting := false, ovr := none, rep := none
          lock := false, repeating := none }
      ∧ Traffic { s with SP := s.SP - 2#16 - 2#16 - 2#16, flags := { s.flags with IF := false, TF := false } } u
      ∧ Reading (s.pushFrame ip) u
      ∧ (s.vectorOverlapped t = false → ip' = ((s.pushFrame ip).readVector t 0).1
        ∧ cs' = (((s.pushFrame ip).readVector t 0).2.readVector t 2).1) := by
  have hr := (State.readVector_reading (s.pushFrame ip) t 0).trans
    (State.readVector_reading ((s.pushFrame ip).readVector t 0).2 t 2)
  refine ⟨_, _, _, _, rfl, (State.pushFrame_form s ip).trans hr.toTraffic, hr, fun ho => ?_⟩
  rw [ho]
  exact ⟨rfl, rfl⟩

/-- The return is a reading after which CS:IP, SP and the flags are new and the queue is empty (R393). -/
theorem State.interruptReturn_form (s : State) :
    ∃ u cs' ip' f, s.interruptReturn =
        { u with CS := cs', IP := ip', SP := s.SP + 2#16 + 2#16 + 2#16, flags := f, queue := [] }
      ∧ Reading s u := by
  obtain ⟨u1, r1, h1⟩ := State.pop16_form s
  obtain ⟨u2, r2, h2⟩ := State.pop16_form s.pop16.2
  obtain ⟨u3, r3, h3⟩ := State.pop16_form s.pop16.2.pop16.2
  have e1 : s.pop16.2.SP = s.SP + 2#16 := by rw [h1]
  have e2 : s.pop16.2.pop16.2.SP = s.SP + 2#16 + 2#16 := by rw [h2, ← e1]
  refine ⟨{ u3 with SP := s.SP }, s.pop16.2.pop16.1, s.pop16.1, Flags.ofImage s.pop16.2.pop16.2.pop16.1, ?_, ?_⟩
  · show { s.pop16.2.pop16.2.pop16.2.jumpFar s.pop16.2.pop16.1 s.pop16.1 with
      flags := Flags.ofImage s.pop16.2.pop16.2.pop16.1 } = _
    rw [h3, e2]
    rfl
  · rw [h2] at r3
    rw [h1] at r2
    exact (r1.withSP s.SP).trans ((r2.withSP s.SP).trans (r3.withSP s.SP))

/-! ## The shared forms of the instructions -/

theorem State.aluFlags_form {n : Nat} (s : State) (op : AluOp) (a b : BitVec n) :
    ∃ f d, s.aluFlags op a b = { s with flags := f, draws := d } ∧ SameControlFlags s.flags f := by
  refine ⟨_, _, rfl, ?_⟩
  cases op <;> exact ⟨rfl, rfl, rfl⟩

/-- A write of an operand after a reading and with new flags: the general registers and the flags are new, the rest is
traffic. -/
theorem State.writeLoc_after {s t : State} (h : Reading s t) (f : Flags) (d : Nat) (w : Width) (l : Loc)
    (v : BitVec w.bits) :
    ∃ ax cx dx bx sp bp si di, Traffic
      { s with AX := ax, CX := cx, DX := dx, BX := bx, SP := sp, BP := bp, SI := si, DI := di, flags := f }
      ({ t with flags := f, draws := d }.writeLoc w l v) := by
  obtain ⟨ax, cx, dx, bx, sp, bp, si, di, k⟩ := State.writeLoc_form { t with flags := f, draws := d } w l v
  refine ⟨ax, cx, dx, bx, sp, bp, si, di, Traffic.trans ?_ k⟩
  exact ⟨by rw [h.form], h.wf, h.queue, h.masters, h.undisturbed⟩

/-- A two-operand instruction changes the general registers and the status flags, and is otherwise traffic. -/
theorem State.aluLoc_form (s : State) (op : AluOp) (w : Width) (l : Loc) (v : BitVec w.bits) :
    ∃ ax cx dx bx sp bp si di f, Traffic
        { s with AX := ax, CX := cx, DX := dx, BX := bx, SP := sp, BP := bp, SI := si, DI := di, flags := f }
        (s.aluLoc op w l v)
      ∧ SameControlFlags s.flags f := by
  have h := State.readLoc_reading s w l
  obtain ⟨f, d, hf, hc⟩ := State.aluFlags_form (s.readLoc w l).2 op (s.readLoc w l).1 v
  rw [h.flags] at hc
  obtain ⟨ax, cx, dx, bx, sp, bp, si, di, k⟩ :=
    State.writeLoc_after h f d w l (op.result (s.readLoc w l).1 v s.flags.CF)
  have e : s.aluLoc op w l v =
      if op.writes then
        ((s.readLoc w l).2.aluFlags op (s.readLoc w l).1 v).writeLoc w l (op.result (s.readLoc w l).1 v s.flags.CF)
      else (s.readLoc w l).2.aluFlags op (s.readLoc w l).1 v := rfl
  rw [e, hf]
  split
  · exact ⟨ax, cx, dx, bx, sp, bp, si, di, f, k, hc⟩
  · exact ⟨s.AX, s.CX, s.DX, s.BX, s.SP, s.BP, s.SI, s.DI, f,
      ⟨by rw [h.form], h.wf, h.queue, h.masters, h.undisturbed⟩, hc⟩

/-- Putting an operand back, or not, is traffic (R262). -/
theorem State.rewriteLoc_traffic (s : State) (w : Width) (l : Loc) (v : BitVec w.bits) :
    Traffic s (s.rewriteLoc w l v) := by
  cases l with
  | reg n => exact Traffic.refl s
  | mem sr seg off =>
    have hm := State.memWrite_traffic { s with draws := s.draws + 1 } sr seg off w v
    unfold State.rewriteLoc
    simp only []
    split
    · exact ⟨rfl, hm.wf, hm.queue, fun x hx => hm.masters x (by rw [hm.form]; exact hx),
        fun hu => by have := hm.undisturbed hu; rw [hm.form] at this; exact this⟩
    · exact ⟨rfl, id, id, fun _ h => h, id⟩

/-- A shift or rotate changes the general registers and the status flags, and is otherwise traffic (R262). -/
theorem State.shiftRm_form (s : State) (op : ShiftOp) (v : Count) (w : Width) (rm : RM) :
    ∃ ax cx dx bx sp bp si di f, Traffic
        { s with AX := ax, CX := cx, DX := dx, BX := bx, SP := sp, BP := bp, SI := si, DI := di, flags := f }
        (s.shiftRm op v w rm)
      ∧ SameControlFlags s.flags f := by
  have h := State.readLoc_reading s w (s.loc rm)
  unfold State.shiftRm
  simp only []
  generalize (s.readLoc w (s.loc rm)).1 = x at *
  generalize (s.readLoc w (s.loc rm)).2 = u at *
  split
  · exact ⟨s.AX, s.CX, s.DX, s.BX, s.SP, s.BP, s.SI, s.DI, s.flags,
      h.toTraffic.trans (u.rewriteLoc_traffic w (s.loc rm) x), rfl, rfl, rfl⟩
  · have hf : SameControlFlags s.flags (op.flags s.flags (s.count v) x (op.times (s.count v) x s.flags.CF).1
        (op.times (s.count v) x s.flags.CF).2 (Config.freeBit u.draws) (Config.freeBit (u.draws + 1))) := by
      unfold ShiftOp.flags
      cases op.isShift <;> exact ⟨rfl, rfl, rfl⟩
    obtain ⟨ax, cx, dx, bx, sp, bp, si, di, k⟩ :=
      State.writeLoc_after h _ (u.draws + 2) w (s.loc rm) (op.times (s.count v) x s.flags.CF).1
    exact ⟨ax, cx, dx, bx, sp, bp, si, di, _, k, hf⟩

/-! ## Undefined flags and the divide error -/

theorem State.undefStatus_form (s : State) :
    ∃ f d, s.undefStatus = { s with flags := f, draws := d } ∧ SameControlFlags s.flags f := by
  unfold State.undefStatus State.undefCF State.undefPF State.undefAF State.undefZF State.undefSF State.undefOF
  exact ⟨_, _, rfl, rfl, rfl, rfl⟩

theorem State.undefAsciiAdjust_form (s : State) :
    ∃ f d, s.undefAsciiAdjust = { s with flags := f, draws := d } ∧ SameControlFlags s.flags f
      ∧ f.AF = s.flags.AF ∧ f.CF = s.flags.CF := by
  unfold State.undefAsciiAdjust State.undefPF State.undefZF State.undefSF State.undefOF
  exact ⟨_, _, rfl, ⟨rfl, rfl, rfl⟩, rfl, rfl⟩

theorem State.undefAsciiScale_form (s : State) :
    ∃ f d, s.undefAsciiScale = { s with flags := f, draws := d } ∧ SameControlFlags s.flags f
      ∧ f.SF = s.flags.SF ∧ f.ZF = s.flags.ZF ∧ f.PF = s.flags.PF := by
  unfold State.undefAsciiScale State.undefCF State.undefAF State.undefOF
  exact ⟨_, _, rfl, ⟨rfl, rfl, rfl⟩, rfl, rfl, rfl⟩

theorem State.productFlags_form (s : State) (upper : Bool) :
    ∃ f d, s.productFlags upper = { s with flags := f, draws := d } ∧ SameControlFlags s.flags f
      ∧ f.CF = upper ∧ f.OF = upper := by
  unfold State.productFlags State.undefPF State.undefAF State.undefZF State.undefSF
  exact ⟨_, _, rfl, ⟨rfl, rfl, rfl⟩, rfl, rfl⟩

theorem State.setQuotient8_form (s : State) (q r : Byte) :
    ∃ f d, s.setQuotient8 q r = { s with AX := wordOf q r, flags := f, draws := d }
      ∧ SameControlFlags s.flags f := by
  obtain ⟨f, d, h, hf⟩ := State.undefStatus_form { s with AX := wordOf q r }
  exact ⟨f, d, h, hf⟩

theorem State.setQuotient16_form (s : State) (q r : Word) :
    ∃ f d, s.setQuotient16 q r = { s with AX := q, DX := r, flags := f, draws := d }
      ∧ SameControlFlags s.flags f := by
  obtain ⟨f, d, h, hf⟩ := State.undefStatus_form { s with AX := q, DX := r }
  exact ⟨f, d, h, hf⟩

/-- The divide error is the interrupt sequence on a state that differs in AX, in DX after a word division, in the
status flags and in the draw counter (R442). -/
theorem State.divideError_form (s : State) (w : Width) :
    ∃ ax dx f d, s.divideError w = State.interrupt { s with AX := ax, DX := dx, flags := f, draws := d } 0x00#8 s.IP
      ∧ SameControlFlags s.flags f ∧ (w = .byte → dx = s.DX) := by
  obtain ⟨f, d, h, hf⟩ := State.undefStatus_form s
  cases w with
  | byte => exact ⟨_, s.DX, f, _, by unfold State.divideError; rw [h], hf, fun _ => rfl⟩
  | word => exact ⟨_, _, f, _, by unfold State.divideError; rw [h], hf, fun h => nomatch h⟩

end Sys2Proof.Machine
end

