-- ==== Sys2Proof/Laws/Interrupts.lean ====
section
/-! SUPPORT. Pushes one after another, and everything the interrupt sequence does (R68, R440). -/

namespace Sys2Proof.Machine

theorem pushedByte_append (ss sp : Word) (vs ws : List Word) (a : PAddr) :
    pushedByte ss sp (vs ++ ws) a =
      (pushedByte ss (sp - BitVec.ofNat 16 (2 * vs.length)) ws a).or (pushedByte ss sp vs a) := by
  induction vs generalizing sp with
  | nil => simp [pushedByte]
  | cons v vs ih =>
    have h : sp - 2#16 - BitVec.ofNat 16 (2 * vs.length) = sp - BitVec.ofNat 16 (2 * (vs.length + 1)) := by
      rw [Nat.mul_add, BitVec.ofNat_add]
      simp [BitVec.sub_sub, BitVec.add_comm]
    simp only [List.cons_append, pushedByte, ih, h, List.length_cons, Option.or_assoc]

/-- Pushes one after another are the pushes of both lists (R68). -/
theorem Pushes.append {s t u : State} {vs ws : List Word} (h : Pushes s t vs) (hss : t.SS = s.SS)
    (hp : t.params = s.params) (m : ∀ x ∈ t.masterBytes, x ∈ s.masterBytes) (k : Pushes t u ws) :
    Pushes s u (vs ++ ws) := by
  obtain ⟨h1, h2, h3⟩ := h
  obtain ⟨k1, k2, k3⟩ := k
  refine ⟨?_, fun r hr => (k2 r hr).trans (h2 r hr), fun a => ?_⟩
  · rw [k1, h1, List.length_append, Nat.mul_add, BitVec.ofNat_add, BitVec.sub_sub]
  · have ha := h3.trans k3 hp m a
    rw [hss, h1] at ha
    rw [pushedByte_append]
    exact ha

/-- Pushes do not depend on the flags before or after them. -/
theorem Pushes.withFlags {s t : State} {vs : List Word} (h : Pushes s t vs) (f : Flags) :
    Pushes s { t with flags := f } vs := ⟨h.1, fun r hr => by rw [← h.2.1 r hr]; cases r <;> rfl, h.2.2⟩

/-- The three pushes of the interrupt sequence (R440). -/
theorem State.pushFrame_pushes (s : State) (ip : Word) :
    Pushes s (s.pushFrame ip) [s.flags.image s.params.flagsX, s.CS, ip] := by
  have f1 := State.push16_form s (s.flags.image s.params.flagsX)
  have key : ∀ u : State, u.SS = s.SS → u.params = s.params → (∀ x ∈ u.masterBytes, x ∈ s.masterBytes) →
      Pushes s u [s.flags.image s.params.flagsX] →
      Pushes s ((u.push16 s.CS).push16 ip) [s.flags.image s.params.flagsX, s.CS, ip] := by
    intro u hss hp hm h
    have f2 := State.push16_form u s.CS
    exact (h.append hss hp hm (State.push16_pushes u s.CS)).append (f2.SS.trans hss) (f2.params.trans hp)
      (fun x hx => hm x (f2.masters x hx)) (State.push16_pushes _ ip)
  have k := key { s.push16 (s.flags.image s.params.flagsX) with flags := { s.flags with IF := false, TF := false } }
    f1.SS f1.params f1.masters ((State.push16_pushes s _).withFlags { s.flags with IF := false, TF := false })
  rw [State.pushFrame_eq]
  exact k

theorem storedByte_word_none (seg off v : Word) (a : PAddr) :
    storedByte seg off .word v a = none ↔ a ≠ phys seg off ∧ a ≠ phys seg (off + 1#16) := by
  simp only [storedByte]
  split
  · simp_all
  · split <;> simp_all

theorem word_below (x : Word) :
    x - 2#16 + 1#16 = x - 1#16 ∧ x - 2#16 - 2#16 = x - 4#16 ∧ x - 4#16 + 1#16 = x - 3#16
      ∧ x - 4#16 - 2#16 = x - 6#16 ∧ x - 6#16 + 1#16 = x - 5#16 :=
  ⟨by bv_omega, by bv_omega, by bv_omega, by bv_omega, by bv_omega⟩

/-- An address the pushes miss is none of the six below SP. -/
theorem pushedByte_three_none (ss sp x y z : Word) (a : PAddr) :
    pushedByte ss sp [x, y, z] a = none →
      ∀ o ∈ [1#16, 2#16, 3#16, 4#16, 5#16, 6#16], phys ss (sp - o) ≠ a := by
  obtain ⟨e1, e2, e3, e4, e5⟩ := word_below sp
  simp only [pushedByte, Option.none_or, Option.or_eq_none_iff, storedByte_word_none, e1, e2, e3, e4, e5,
    List.mem_cons, List.not_mem_nil, or_false]
  rintro ⟨⟨⟨h6, h5⟩, h4, h3⟩, h2, h1⟩ o (rfl | rfl | rfl | rfl | rfl | rfl)
  · exact h1.symm
  · exact h2.symm
  · exact h3.symm
  · exact h4.symm
  · exact h5.symm
  · exact h6.symm

theorem State.vectorOverlapped_apart (s : State) (ty : Byte) (h : PointerApart s ty) :
    s.vectorOverlapped ty = false := by
  simp only [State.vectorOverlapped, List.any_eq_false, beq_iff_eq, Bool.not_eq_true]
  intro o ho k hk
  exact pushedByte_three_none s.SS s.SP 0#16 0#16 0#16 _ (h k (by simp at hk; omega)) o ho

/-- Where the pushes miss the pointer, a read of it afterwards gives what it could have given before. -/
theorem pushed_apart {s t : State} {x y z : Word} (h : Pushes s t [x, y, z]) (ty : Byte) (hp : PointerApart s ty)
    (k : Nat) (hk : k < 4) : s.MayHold (vectorAddr ty k) (t.byteAt (vectorAddr ty k)) := by
  have hn : pushedByte s.SS s.SP [x, y, z] (vectorAddr ty k) = none := by
    have hn := hp k hk
    simp only [pushedByte, Option.none_or, Option.or_eq_none_iff, storedByte_word_none] at hn ⊢
    exact hn
  have ha := h.2.2 (vectorAddr ty k)
  rw [hn] at ha
  exact ha

theorem phys_vector (ty : Byte) (k : Nat) (hk : k < 4) :
    phys 0x0000#16 (BitVec.ofNat 16 (4 * ty.toNat + k)) = vectorAddr ty k := by
  unfold phys vectorAddr
  have := ty.isLt
  apply BitVec.eq_of_toNat_eq
  simp only [BitVec.toNat_ofNat]
  omega

theorem State.readVector_reads (s : State) (ty : Byte) (k : Nat) (hk : k < 3) :
    Reads s 0x0000#16 (BitVec.ofNat 16 (4 * ty.toNat + k)) .word (s.readVector ty k).1 := by
  have e0 := phys_vector ty k (by omega)
  have e1 := phys_vector ty (k + 1) (by omega)
  have ea : BitVec.ofNat 16 (4 * ty.toNat + k) + 1#16 = BitVec.ofNat 16 (4 * ty.toNat + (k + 1)) := by
    rw [← Nat.add_assoc, BitVec.ofNat_add (4 * ty.toNat + k) 1]
  refine ⟨fun h => ?_, fun h => ?_⟩
  · rw [e0] at h ⊢
    show s.MayHold _ (lowByte (wordOf _ _))
    rw [lowByte_wordOf]
    exact State.readPhys_mayHold s .free .codeOrNone (vectorAddr ty k) h
  · rw [ea, e1] at h ⊢
    show s.MayHold _ (highByte (wordOf _ _))
    rw [highByte_wordOf]
    have hr := State.readPhys_reading s .free .codeOrNone (vectorAddr ty k)
    exact hr.mayHold (State.readPhys_mayHold _ .wordHalf .codeOrNone _ ((hr.remembers _).mpr h))

/-- What a read of the pointer gives after the pushes, where they miss it, it could give before. -/
theorem Reads.beforePushes {s t : State} {x y z : Word} (h : Pushes s t [x, y, z]) (hp : t.params = s.params)
    (m : ∀ x ∈ t.masterBytes, x ∈ s.masterBytes) (ty : Byte) (ha : PointerApart s ty) (k : Nat) (hk : k < 3) {v : Word}
    (r : Reads t 0x0000#16 (BitVec.ofNat 16 (4 * ty.toNat + k)) .word v) :
    Reads s 0x0000#16 (BitVec.ofNat 16 (4 * ty.toNat + k)) .word v := by
  have ea : BitVec.ofNat 16 (4 * ty.toNat + k) + 1#16 = BitVec.ofNat 16 (4 * ty.toNat + (k + 1)) := by
    rw [← Nat.add_assoc, BitVec.ofNat_add (4 * ty.toNat + k) 1]
  have one : ∀ (j : Nat) (b : Byte), j < 4 → (t.Remembers (vectorAddr ty j) → t.MayHold (vectorAddr ty j) b) →
      s.Remembers (vectorAddr ty j) → s.MayHold (vectorAddr ty j) b := by
    intro j b hj hr hs
    rcases hr (by unfold State.Remembers at hs ⊢; rw [hp]; exact hs) with e | e
    · rw [e]
      exact pushed_apart h ty ha j hj
    · exact .inr (m _ e)
  obtain ⟨r1, r2⟩ := r
  rw [phys_vector ty k (by omega)] at r1
  rw [ea, phys_vector ty (k + 1) (by omega)] at r2
  refine ⟨?_, ?_⟩
  · rw [phys_vector ty k (by omega)]
    exact one k _ (by omega) r1
  · rw [ea, phys_vector ty (k + 1) (by omega)]
    exact one (k + 1) _ (by omega) r2

/-- Taking an interrupt (R440): everything the sequence does. -/
theorem State.interrupt_taken (s : State) (ty : Byte) (ip : Word) :
    InterruptTaken s (s.interrupt ty ip) ty ip ∧ SameRecognition s (s.interrupt ty ip) := by
  have hp := State.pushFrame_pushes s ip
  have hf := State.pushFrame_form s ip
  obtain ⟨u, cs', ip', d', he, hu, hr, hv⟩ := State.interrupt_form s ty ip
  rw [he]
  have hv := fun ha => hv (State.vectorOverlapped_apart s ty ha)
  refine ⟨⟨⟨?_, fun r hn => ?_, fun a => ?_⟩, hu.flags, fun ha => ?_, ⟨hu.ES, hu.SS, hu.DS⟩, rfl, rfl, rfl,
    ⟨rfl, rfl, rfl⟩, rfl, hu.params, hu.pins, hu.env, hu.portIn, hu.busGranted, hu.stalled⟩, hu.nmiLatch, hu.fullShadow,
    hu.stiShadow, hu.trapDue, hu.afterSeq, hu.fresh⟩
  · rw [← hp.1]
    exact hr.SP
  · rw [← hp.2.1 r hn, ← hr.sameRegs r]
    cases r <;> rfl
  · exact hp.2.2.after hr.same hf.masters a
  · rw [(hv ha).1, (hv ha).2]
    have h2 := State.readVector_reads ((s.pushFrame ip).readVector ty 0).2 ty 2 (by omega)
    exact ⟨Reads.beforePushes hp hf.params hf.masters ty ha 0 (by omega) (State.readVector_reads _ ty 0 (by omega)),
      Reads.beforePushes hp hf.params hf.masters ty ha 2 (by omega)
        (h2.before (State.readVector_reading (s.pushFrame ip) ty 0))⟩

/-- What an interrupt sequence does after a reading, it does. -/
theorem InterruptTaken.before {s u t : State} {ty : Byte} {ip : Word} (h : Reading s u)
    (k : InterruptTaken u t ty ip) : InterruptTaken s t ty ip := by
  obtain ⟨⟨k1, k2, k3⟩, k4, k5, k6, k7, k8, k9, k10, k11, k12, k13, k14, k15, k16, k17⟩ := k
  refine ⟨⟨by rw [k1, h.SP]; rfl, fun r hr => (k2 r hr).trans (h.sameRegs r), ?_⟩, by rw [k4, h.flags], fun ha => ?_,
    ⟨k6.1.trans h.ES, k6.2.1.trans h.SS, k6.2.2.trans h.DS⟩, k7, k8, k9, k10, k11, k12.trans h.params,
    k13.trans h.pins, k14.trans h.env, k15.trans h.portIn, k16.trans h.busGranted, k17.trans h.stalled⟩
  · have k := MemoryAfter.before h k3
    rw [h.SS, h.SP, h.flags, h.params, h.CS] at k
    exact k
  · have k := k5 (by unfold PointerApart at ha ⊢; rw [h.SS, h.SP]; exact ha)
    exact ⟨k.1.before h, k.2.before h⟩

end Sys2Proof.Machine
end

