-- ==== Sys2Proof/Laws/PerInstr.lean ====
section
/-! SUPPORT. Statements about every instruction, one lemma per constructor of `Instr`. -/

namespace Sys2Proof.Laws.EncodeLength

/-- An instruction takes one to six bytes (30_encoding.md R100). -/
def Statement (i : Instr) : Prop := 1 ≤ (encode i).length ∧ (encode i).length ≤ 6

theorem length_one (op : Byte) : 1 ≤ [op].length ∧ [op].length ≤ 6 := by simp

theorem length_rm (op : Byte) (mid : Bits3) (rm : RM) :
    1 ≤ (op :: encodeRM mid rm).length ∧ (op :: encodeRM mid rm).length ≤ 6 := by
  have h := length_encodeRM mid rm
  simp only [List.length_cons]
  omega

theorem length_mem (op : Byte) (mid : Bits3) (m : MemOp) :
    1 ≤ (op :: encodeMem mid m).length ∧ (op :: encodeMem mid m).length ≤ 6 := by
  have h := length_encodeMem mid m
  simp only [List.length_cons]
  omega

theorem length_data (op : Byte) (l : List Byte) (h : 1 ≤ l.length ∧ l.length ≤ 2) :
    1 ≤ (op :: l).length ∧ (op :: l).length ≤ 6 := by
  simp only [List.length_cons]
  omega

theorem length_far (op : Byte) (off seg : Word) :
    1 ≤ (op :: bytesOfWord off ++ bytesOfWord seg).length ∧ (op :: bytesOfWord off ++ bytesOfWord seg).length ≤ 6 := by
  simp

theorem length_rm_data (op : Byte) (mid : Bits3) (rm : RM) (l : List Byte) (hl : 1 ≤ l.length ∧ l.length ≤ 2) :
    1 ≤ (op :: encodeRM mid rm ++ l).length ∧ (op :: encodeRM mid rm ++ l).length ≤ 6 := by
  have h := length_encodeRM mid rm
  simp only [List.length_cons, List.length_append]
  omega

theorem movRmReg (d : Dir) (w : Width) (rm : RM) (reg : RegNum) : Statement (.movRmReg d w rm reg) := length_rm _ _ _

theorem movRmImm (rm : RM) (imm : Imm) : Statement (.movRmImm rm imm) := length_rm_data _ _ _ _ (length_encodeImm imm)

theorem movRegImm (reg : RegNum) (imm : Imm) : Statement (.movRegImm reg imm) :=
  length_data _ _ (length_encodeImm imm)

theorem movAccMem (w : Width) (addr : Word) : Statement (.movAccMem w addr) :=
  length_data _ _ ⟨Nat.le_succ 1, Nat.le_refl 2⟩

theorem movMemAcc (w : Width) (addr : Word) : Statement (.movMemAcc w addr) :=
  length_data _ _ ⟨Nat.le_succ 1, Nat.le_refl 2⟩

theorem movSregRm (sr : DataSReg) (rm : RM) : Statement (.movSregRm sr rm) := length_rm _ _ _

theorem movRmSreg (rm : RM) (sr : SReg) : Statement (.movRmSreg rm sr) := length_rm _ _ _

theorem pushRm (rm : RM) : Statement (.pushRm rm) := length_rm _ _ _

theorem pushReg (r : Reg16) : Statement (.pushReg r) := length_one _

theorem pushSreg (sr : SReg) : Statement (.pushSreg sr) := length_one _

theorem popRm (rm : RM) : Statement (.popRm rm) := length_rm _ _ _

theorem popReg (r : Reg16) : Statement (.popReg r) := length_one _

theorem popSreg (sr : DataSReg) : Statement (.popSreg sr) := length_one _

theorem xchgRmReg (w : Width) (rm : RM) (reg : RegNum) : Statement (.xchgRmReg w rm reg) := length_rm _ _ _

theorem xchgAccReg (r : Reg16) : Statement (.xchgAccReg r) := length_one _

theorem inFixed (w : Width) (port : Byte) : Statement (.inFixed w port) :=
  length_data _ _ ⟨Nat.le_refl 1, Nat.le_succ 1⟩

theorem inVar (w : Width) : Statement (.inVar w) := length_one _

theorem outFixed (w : Width) (port : Byte) : Statement (.outFixed w port) :=
  length_data _ _ ⟨Nat.le_refl 1, Nat.le_succ 1⟩

theorem outVar (w : Width) : Statement (.outVar w) := length_one _

theorem xlat : Statement (.xlat) := length_one _

theorem lea (r : Reg16) (m : MemOp) : Statement (.lea r m) := length_mem _ _ _

theorem lds (r : Reg16) (m : MemOp) : Statement (.lds r m) := length_mem _ _ _

theorem les (r : Reg16) (m : MemOp) : Statement (.les r m) := length_mem _ _ _

theorem lahf : Statement (.lahf) := length_one _

theorem sahf : Statement (.sahf) := length_one _

theorem pushf : Statement (.pushf) := length_one _

theorem popf : Statement (.popf) := length_one _

theorem addRmReg (d : Dir) (w : Width) (rm : RM) (reg : RegNum) : Statement (.addRmReg d w rm reg) := length_rm _ _ _

theorem addRmImm (rm : RM) (imm : ImmSW) : Statement (.addRmImm rm imm) :=
  length_rm_data _ _ _ _ (length_encodeImmSW imm)

theorem addAccImm (imm : Imm) : Statement (.addAccImm imm) := length_data _ _ (length_encodeImm imm)

theorem adcRmReg (d : Dir) (w : Width) (rm : RM) (reg : RegNum) : Statement (.adcRmReg d w rm reg) := length_rm _ _ _

theorem adcRmImm (rm : RM) (imm : ImmSW) : Statement (.adcRmImm rm imm) :=
  length_rm_data _ _ _ _ (length_encodeImmSW imm)

theorem adcAccImm (imm : Imm) : Statement (.adcAccImm imm) := length_data _ _ (length_encodeImm imm)

theorem incRm (w : Width) (rm : RM) : Statement (.incRm w rm) := length_rm _ _ _

theorem incReg (r : Reg16) : Statement (.incReg r) := length_one _

theorem aaa : Statement (.aaa) := length_one _

theorem daa : Statement (.daa) := length_one _

theorem subRmReg (d : Dir) (w : Width) (rm : RM) (reg : RegNum) : Statement (.subRmReg d w rm reg) := length_rm _ _ _

theorem subRmImm (rm : RM) (imm : ImmSW) : Statement (.subRmImm rm imm) :=
  length_rm_data _ _ _ _ (length_encodeImmSW imm)

theorem subAccImm (imm : Imm) : Statement (.subAccImm imm) := length_data _ _ (length_encodeImm imm)

theorem sbbRmReg (d : Dir) (w : Width) (rm : RM) (reg : RegNum) : Statement (.sbbRmReg d w rm reg) := length_rm _ _ _

theorem sbbRmImm (rm : RM) (imm : ImmSW) : Statement (.sbbRmImm rm imm) :=
  length_rm_data _ _ _ _ (length_encodeImmSW imm)

theorem sbbAccImm (imm : Imm) : Statement (.sbbAccImm imm) := length_data _ _ (length_encodeImm imm)

theorem decRm (w : Width) (rm : RM) : Statement (.decRm w rm) := length_rm _ _ _

theorem decReg (r : Reg16) : Statement (.decReg r) := length_one _

theorem negRm (w : Width) (rm : RM) : Statement (.negRm w rm) := length_rm _ _ _

theorem cmpRmReg (d : Dir) (w : Width) (rm : RM) (reg : RegNum) : Statement (.cmpRmReg d w rm reg) := length_rm _ _ _

theorem cmpRmImm (rm : RM) (imm : ImmSW) : Statement (.cmpRmImm rm imm) :=
  length_rm_data _ _ _ _ (length_encodeImmSW imm)

theorem cmpAccImm (imm : Imm) : Statement (.cmpAccImm imm) := length_data _ _ (length_encodeImm imm)

theorem aas : Statement (.aas) := length_one _

theorem das : Statement (.das) := length_one _

theorem mulRm (w : Width) (rm : RM) : Statement (.mulRm w rm) := length_rm _ _ _

theorem imulRm (w : Width) (rm : RM) : Statement (.imulRm w rm) := length_rm _ _ _

theorem aam : Statement (.aam) := length_data _ _ (by decide)

theorem divRm (w : Width) (rm : RM) : Statement (.divRm w rm) := length_rm _ _ _

theorem idivRm (w : Width) (rm : RM) : Statement (.idivRm w rm) := length_rm _ _ _

theorem aad : Statement (.aad) := length_data _ _ (by decide)

theorem cbw : Statement (.cbw) := length_one _

theorem cwd : Statement (.cwd) := length_one _

theorem notRm (w : Width) (rm : RM) : Statement (.notRm w rm) := length_rm _ _ _

theorem shl (v : Count) (w : Width) (rm : RM) : Statement (.shl v w rm) := length_rm _ _ _

theorem shr (v : Count) (w : Width) (rm : RM) : Statement (.shr v w rm) := length_rm _ _ _

theorem sar (v : Count) (w : Width) (rm : RM) : Statement (.sar v w rm) := length_rm _ _ _

theorem rol (v : Count) (w : Width) (rm : RM) : Statement (.rol v w rm) := length_rm _ _ _

theorem ror (v : Count) (w : Width) (rm : RM) : Statement (.ror v w rm) := length_rm _ _ _

theorem rcl (v : Count) (w : Width) (rm : RM) : Statement (.rcl v w rm) := length_rm _ _ _

theorem rcr (v : Count) (w : Width) (rm : RM) : Statement (.rcr v w rm) := length_rm _ _ _

theorem andRmReg (d : Dir) (w : Width) (rm : RM) (reg : RegNum) : Statement (.andRmReg d w rm reg) := length_rm _ _ _

theorem andRmImm (rm : RM) (imm : Imm) : Statement (.andRmImm rm imm) := length_rm_data _ _ _ _ (length_encodeImm imm)

theorem andAccImm (imm : Imm) : Statement (.andAccImm imm) := length_data _ _ (length_encodeImm imm)

theorem testRmReg (w : Width) (rm : RM) (reg : RegNum) : Statement (.testRmReg w rm reg) := length_rm _ _ _

theorem testRmImm (rm : RM) (imm : Imm) : Statement (.testRmImm rm imm) :=
  length_rm_data _ _ _ _ (length_encodeImm imm)

theorem testAccImm (imm : Imm) : Statement (.testAccImm imm) := length_data _ _ (length_encodeImm imm)

theorem orRmReg (d : Dir) (w : Width) (rm : RM) (reg : RegNum) : Statement (.orRmReg d w rm reg) := length_rm _ _ _

theorem orRmImm (rm : RM) (imm : Imm) : Statement (.orRmImm rm imm) := length_rm_data _ _ _ _ (length_encodeImm imm)

theorem orAccImm (imm : Imm) : Statement (.orAccImm imm) := length_data _ _ (length_encodeImm imm)

theorem xorRmReg (d : Dir) (w : Width) (rm : RM) (reg : RegNum) : Statement (.xorRmReg d w rm reg) := length_rm _ _ _

theorem xorRmImm (rm : RM) (imm : Imm) : Statement (.xorRmImm rm imm) := length_rm_data _ _ _ _ (length_encodeImm imm)

theorem xorAccImm (imm : Imm) : Statement (.xorAccImm imm) := length_data _ _ (length_encodeImm imm)

theorem rep (z : Bool) : Statement (.rep z) := length_one _

theorem movs (w : Width) : Statement (.movs w) := length_one _

theorem cmps (w : Width) : Statement (.cmps w) := length_one _

theorem scas (w : Width) : Statement (.scas w) := length_one _

theorem lods (w : Width) : Statement (.lods w) := length_one _

theorem stos (w : Width) : Statement (.stos w) := length_one _

theorem callNear (disp : Word) : Statement (.callNear disp) := length_data _ _ ⟨Nat.le_succ 1, Nat.le_refl 2⟩

theorem callRm (rm : RM) : Statement (.callRm rm) := length_rm _ _ _

theorem callFar (off : Word) (seg : Word) : Statement (.callFar off seg) := length_far _ off seg

theorem callMemFar (m : MemOp) : Statement (.callMemFar m) := length_mem _ _ _

theorem jmpNear (disp : Word) : Statement (.jmpNear disp) := length_data _ _ ⟨Nat.le_succ 1, Nat.le_refl 2⟩

theorem jmpShort (disp : Byte) : Statement (.jmpShort disp) := length_data _ _ ⟨Nat.le_refl 1, Nat.le_succ 1⟩

theorem jmpRm (rm : RM) : Statement (.jmpRm rm) := length_rm _ _ _

theorem jmpFar (off : Word) (seg : Word) : Statement (.jmpFar off seg) := length_far _ off seg

theorem jmpMemFar (m : MemOp) : Statement (.jmpMemFar m) := length_mem _ _ _

theorem ret : Statement (.ret) := length_one _

theorem retImm (n : Word) : Statement (.retImm n) := length_data _ _ ⟨Nat.le_succ 1, Nat.le_refl 2⟩

theorem retf : Statement (.retf) := length_one _

theorem retfImm (n : Word) : Statement (.retfImm n) := length_data _ _ ⟨Nat.le_succ 1, Nat.le_refl 2⟩

theorem jo (disp : Byte) : Statement (.jo disp) := length_data _ _ ⟨Nat.le_refl 1, Nat.le_succ 1⟩

theorem jno (disp : Byte) : Statement (.jno disp) := length_data _ _ ⟨Nat.le_refl 1, Nat.le_succ 1⟩

theorem jb (disp : Byte) : Statement (.jb disp) := length_data _ _ ⟨Nat.le_refl 1, Nat.le_succ 1⟩

theorem jnb (disp : Byte) : Statement (.jnb disp) := length_data _ _ ⟨Nat.le_refl 1, Nat.le_succ 1⟩

theorem je (disp : Byte) : Statement (.je disp) := length_data _ _ ⟨Nat.le_refl 1, Nat.le_succ 1⟩

theorem jne (disp : Byte) : Statement (.jne disp) := length_data _ _ ⟨Nat.le_refl 1, Nat.le_succ 1⟩

theorem jbe (disp : Byte) : Statement (.jbe disp) := length_data _ _ ⟨Nat.le_refl 1, Nat.le_succ 1⟩

theorem jnbe (disp : Byte) : Statement (.jnbe disp) := length_data _ _ ⟨Nat.le_refl 1, Nat.le_succ 1⟩

theorem js (disp : Byte) : Statement (.js disp) := length_data _ _ ⟨Nat.le_refl 1, Nat.le_succ 1⟩

theorem jns (disp : Byte) : Statement (.jns disp) := length_data _ _ ⟨Nat.le_refl 1, Nat.le_succ 1⟩

theorem jp (disp : Byte) : Statement (.jp disp) := length_data _ _ ⟨Nat.le_refl 1, Nat.le_succ 1⟩

theorem jnp (disp : Byte) : Statement (.jnp disp) := length_data _ _ ⟨Nat.le_refl 1, Nat.le_succ 1⟩

theorem jl (disp : Byte) : Statement (.jl disp) := length_data _ _ ⟨Nat.le_refl 1, Nat.le_succ 1⟩

theorem jnl (disp : Byte) : Statement (.jnl disp) := length_data _ _ ⟨Nat.le_refl 1, Nat.le_succ 1⟩

theorem jle (disp : Byte) : Statement (.jle disp) := length_data _ _ ⟨Nat.le_refl 1, Nat.le_succ 1⟩

theorem jnle (disp : Byte) : Statement (.jnle disp) := length_data _ _ ⟨Nat.le_refl 1, Nat.le_succ 1⟩

theorem loop (disp : Byte) : Statement (.loop disp) := length_data _ _ ⟨Nat.le_refl 1, Nat.le_succ 1⟩

theorem loopz (disp : Byte) : Statement (.loopz disp) := length_data _ _ ⟨Nat.le_refl 1, Nat.le_succ 1⟩

theorem loopnz (disp : Byte) : Statement (.loopnz disp) := length_data _ _ ⟨Nat.le_refl 1, Nat.le_succ 1⟩

theorem jcxz (disp : Byte) : Statement (.jcxz disp) := length_data _ _ ⟨Nat.le_refl 1, Nat.le_succ 1⟩

theorem intN (t : Byte) : Statement (.intN t) := length_data _ _ ⟨Nat.le_refl 1, Nat.le_succ 1⟩

theorem int3 : Statement (.int3) := length_one _

theorem into : Statement (.into) := length_one _

theorem iret : Statement (.iret) := length_one _

theorem clc : Statement (.clc) := length_one _

theorem cmc : Statement (.cmc) := length_one _

theorem stc : Statement (.stc) := length_one _

theorem cld : Statement (.cld) := length_one _

theorem std : Statement (.std) := length_one _

theorem cli : Statement (.cli) := length_one _

theorem sti : Statement (.sti) := length_one _

theorem hlt : Statement (.hlt) := length_one _

theorem wait : Statement (.wait) := length_one _

theorem esc (x1 : Bits3) (x2 : Bits3) (rm : RM) : Statement (.esc x1 x2 rm) := length_rm _ _ _

theorem lock : Statement (.lock) := length_one _

theorem segment (sr : SReg) : Statement (.segment sr) := length_one _

end Sys2Proof.Laws.EncodeLength
end

