-- ==== Sys2Proof/Laws/Step.lean ====
section
/-! SUPPORT. The step taken apart: from the pins to the boundary, and from the boundary to the instruction. -/

namespace Sys2Proof.Machine

theorem State.reclaimBus_held {s : State} (h : s.busGranted = false) : s.reclaimBus = s := by
  simp [State.reclaimBus, h]

/-- Taking the bus back changes the grant, the queue, the trace, the devices' answers and the draw counter at most. -/
theorem State.reclaimBus_form (s : State) :
    ∃ q b d n, s.reclaimBus = { s with busGranted := false, queue := q, bus := b, devIn := d, draws := n } := by
  unfold State.reclaimBus
  split
  · split
    · exact ⟨_, _, _, _, rfl⟩
    · exact ⟨_, _, _, _, rfl⟩
  · rename_i h
    simp only [Bool.not_eq_true] at h
    exact ⟨s.queue, s.bus, s.devIn, s.draws, by cases s; simp_all⟩

theorem State.grantBus_none {s : State} (h : s.requests = [] ∨ s.lockActive = true) : s.grantBus = none := by
  rcases h with h | h <;> simp [State.grantBus, h, inOrder]

/-- With RESET low, no bus cycle waiting for READY and the bus not given away, a step is the boundary and the end of the
step. -/
theorem State.advance_runs {s u : State} (hu : { s.samplePins with stalled := false } = u)
    (hr : s.samplePins.resetHigh = false) (hy : s.samplePins.ready = true ∨ s.stalled = false)
    (hg : u.grantBus = none) : step s = endStep s u u.reclaimBus.boundary := by
  subst hu
  have hs : s.samplePins.stalled = s.stalled := by unfold State.samplePins; split <;> rfl
  have hb : s.samplePins.bus = s.bus := by unfold State.samplePins; split <;> rfl
  have hw : (s.samplePins.stalled && !s.samplePins.ready) = false := by rw [hs]; rcases hy with h | h <;> simp [h]
  unfold step State.advance
  simp only [hr, hw, hg, Bool.false_eq_true, if_false]
  generalize State.boundary _ = r
  cases r with
  | next t =>
    simp only [endStep, State.ended, State.finish, State.ranCycles, hb]
  | fault r => rfl
  | refused r => rfl

/-- The pins do not depend on who has the bus. -/
theorem State.ready_reclaimBus (s : State) : s.reclaimBus.ready = s.ready := by
  obtain ⟨q, b, d, n, e⟩ := s.reclaimBus_form
  rw [e]
  rfl

/-- With nothing at the pins that holds the chip, a step is the boundary of the sampled state and the end of the
step. -/
theorem State.advance_sampled {s u : State} (h : s.Sampled u) : step s = endStep s u u.boundary := by
  obtain ⟨v, hv, hq, rfl⟩ := h
  have hp : { s.samplePins with stalled := false } = v ∧ s.samplePins.resetHigh = false
      ∧ (s.samplePins.ready = true ∨ s.stalled = false) := by
    rcases hv with ⟨he, rfl⟩ | ⟨p, ps, he, hr, hy, rfl⟩
    · simp [State.samplePins, he, State.resetHigh, State.ready]
    · simp [State.samplePins, he, State.resetHigh, State.ready, hr, hy]
  rw [State.advance_runs hp.1 hp.2.1 hp.2.2 (State.grantBus_none hq)]
  simp only [endStep, State.ended, State.ready_reclaimBus]

/-- The acknowledge sequence is a reading (R441). -/
theorem State.acknowledge_reading (s : State) (ty : Byte) : Reading s (s.acknowledge ty) :=
  (((s.gap_reading .free).trans (State.logCycle_reading _ _)).trans (State.gap_reading _ .acknowledge)).trans
    (State.logCycle_reading _ _)

/-- An external request taken up (R438 step 2): the NMI, with its latch cleared, or else the INTR, with its acknowledge
sequence run; LOCK is over. -/
theorem State.externalAt_some {s : State} {l : Option InterruptPins}
    (h : s.nmiLatch = true ∨ ∃ p, l = some p ∧ p.intr = true ∧ s.flags.IF = true ∧ s.stiShadow = false) :
    ∃ ty u, s.externalAt l = some (ty, u) ∧ Reading { s with nmiLatch := false, lock := false } u
      ∧ (s.nmiLatch = true → ty = 0x02#8)
      ∧ (s.nmiLatch = false →
        ∃ p, l = some p ∧ ty = p.intaType ∧ u = State.acknowledge { s with lock := false } p.intaType) := by
  by_cases hn : s.nmiLatch = true
  · exact ⟨0x02#8, { s with nmiLatch := false, lock := false }, by simp [State.externalAt, hn], Reading.refl _,
      fun _ => rfl, fun h => by simp [hn] at h⟩
  · rcases h with h | ⟨p, hp, h1, h2, h3⟩
    · exact absurd h hn
    · simp only [Bool.not_eq_true] at hn
      refine ⟨p.intaType, State.acknowledge { s with lock := false } p.intaType,
        by simp [State.externalAt, hn, hp, h1, h2, h3], ?_, fun h => by simp [hn] at h, fun _ => ⟨p, hp, rfl, rfl⟩⟩
      have e : ({ s with nmiLatch := false, lock := false } : State) = { s with lock := false } := by rw [← hn]
      rw [e]
      exact State.acknowledge_reading _ _

theorem State.externalAt_none {s : State} {l : Option InterruptPins} (h1 : s.nmiLatch = false)
    (h2 : ¬ ∃ p, l = some p ∧ p.intr = true ∧ s.flags.IF = true ∧ s.stiShadow = false) : s.externalAt l = none := by
  simp only [State.externalAt, h1]
  cases l with
  | none => simp
  | some p =>
    have : ¬ ((p.intr && s.flags.IF && !s.stiShadow) = true) := by
      intro hc
      simp only [Bool.and_eq_true, Bool.not_eq_true'] at hc
      exact h2 ⟨p, rfl, hc.1.1, hc.1.2, hc.2⟩
    simp [this]

/-- INTR at a boundary is INTR of the step's own pins. -/
theorem State.intrAccepted_iff {s : State} :
    s.IntrAccepted ↔
      ∃ p, (s.pins.map PinSample.toInterruptPins) = some p ∧ p.intr = true ∧ s.flags.IF = true
        ∧ s.stiShadow = false := by
  unfold State.IntrAccepted
  cases s.pins <;> simp

/-- An external request taken up at a boundary. -/
theorem State.external_some {s : State} (h : s.nmiLatch = true ∨ s.IntrAccepted) :
    ∃ ty u, s.external = some (ty, u) ∧ Reading { s with nmiLatch := false, lock := false } u
      ∧ (s.nmiLatch = true → ty = 0x02#8)
      ∧ (s.nmiLatch = false →
        ∃ p, s.pins = some p ∧ ty = p.intaType ∧ u = State.acknowledge { s with lock := false } p.intaType) := by
  rw [State.intrAccepted_iff] at h
  obtain ⟨ty, u, he, hr, h1, h2⟩ := State.externalAt_some h
  refine ⟨ty, u, he, hr, h1, fun hn => ?_⟩
  obtain ⟨q, hq, e1, e2⟩ := h2 hn
  obtain ⟨p, hp, rfl⟩ := Option.map_eq_some_iff.mp hq
  exact ⟨p, hp, e1, e2⟩

theorem State.external_none {s : State} (h1 : s.nmiLatch = false) (h2 : ¬ s.IntrAccepted) : s.external = none :=
  State.externalAt_none h1 (by rwa [State.intrAccepted_iff] at h2)

theorem State.latchInside_nmiLatch (s : State) : s.latchInside.nmiLatch = true ↔ s.NmiInside := by
  unfold State.latchInside State.NmiInside
  cases s.pins <;> simp

/-- The point before the first iteration under a full shadow, and where nothing is accepted there (R301, R437). -/
theorem State.firstPoint_none {s : State} {i : Instr} (h : s.fullShadow = true ∨ (¬ s.NmiInside ∧ ¬ s.IntrInside)) :
    s.firstPoint i = none := by
  unfold State.firstPoint
  rcases h with h | ⟨h1, h2⟩
  · simp [h]
  · split
    · rfl
    · refine State.externalAt_none (by simpa [← State.latchInside_nmiLatch] using h1) ?_
      rintro ⟨q, hq, h3⟩
      obtain ⟨p, hp, rfl⟩ := Option.map_eq_some_iff.mp hq
      exact h2 ⟨p, hp, h3⟩

/-- An external request taken up at the point before the first iteration: the NMI latched by then, or else the INTR
that the pins show there (R301, R302, R438). -/
theorem State.firstPoint_some {s : State} {i : Instr} (hf : s.fullShadow = false) (h : s.NmiInside ∨ s.IntrInside) :
    ∃ ty u, s.firstPoint i = some (ty, u) ∧ Reading { s with repeating := some i, nmiLatch := false, lock := false } u
      ∧ (s.NmiInside → ty = 0x02#8) ∧ (¬ s.NmiInside → ∀ p, s.pins = some p → ty = p.inside.intaType) := by
  have h' : s.latchInside.nmiLatch = true
      ∨ ∃ p, (s.pins.map PinSample.inside) = some p ∧ p.intr = true ∧ s.flags.IF = true ∧ s.stiShadow = false := by
    refine h.imp s.latchInside_nmiLatch.mpr ?_
    rintro ⟨p, hp, h3⟩
    exact ⟨p.inside, by simp [hp], h3⟩
  obtain ⟨ty, u, he, hr, h1, h2⟩ := State.externalAt_some (s := { s.latchInside with repeating := some i }) h'
  have hp : s.firstPoint i = some (ty, u) := by
    unfold State.firstPoint
    rw [if_neg (by simp [hf])]
    exact he
  refine ⟨ty, u, hp, hr, fun hn => h1 (s.latchInside_nmiLatch.mpr hn), fun hn p hp => ?_⟩
  obtain ⟨q, hq, e1, -⟩ := h2 (by simpa [← State.latchInside_nmiLatch] using hn)
  simp only [hp, Option.map_some, Option.some.injEq] at hq
  rw [e1, ← hq]

theorem State.recognised_none {s : State} (h : s.NothingPending) : s.recognised = none := by
  rcases h with h | h
  · simp [State.recognised, h]
  · simp [State.recognised, State.external_none h.1 h.2.2, State.trap, h.2.1]

theorem State.midInstruction_false {s : State} (h : s.noPrefix ∨ s.repeating ≠ none) : s.midInstruction = false := by
  rcases h with h | h
  · simp [State.midInstruction, h.1, h.2.1, h.2.2]
  · cases hr : s.repeating <;> simp_all [State.midInstruction]

/-- Each byte fetched moves IP by one. -/
theorem State.fetchOne_IP (s : State) : s.fetchOne.2.IP = s.IP + 1#16 := by
  unfold State.fetchOne
  have h : (if s.queue.isEmpty = true then s.arbitrate .free else s).IP = s.IP := by split <;> rfl
  simp only []
  split <;> simp only [h]

/-- Traffic does not depend on IP. -/
theorem Reading.withIP {s t : State} (h : Reading s t) (ip : Word) : Reading { s with IP := ip } { t with IP := ip } :=
  ⟨⟨by rw [h.form], h.wf, h.queue, h.masters, h.undisturbed⟩, h.same⟩

/-- A byte fetched is a reading that moves IP on. -/
theorem State.fetchOne_form (s : State) : Reading { s with IP := s.IP + 1#16 } s.fetchOne.2 := by
  have ha : Reading s (if s.queue.isEmpty = true then s.arbitrate .free else s) := by
    split
    · exact s.arbitrate_reading .free
    · exact Reading.refl s
  unfold State.fetchOne
  simp only []
  generalize (if s.queue.isEmpty = true then s.arbitrate .free else s) = t at *
  rw [← ha.IP]
  refine (ha.withIP (t.IP + 1#16)).trans ?_
  split
  · rename_i b q hq
    refine ⟨⟨rfl, id, fun h => ?_, fun _ h => h, id⟩, SameMemory.refl _⟩
    simp only [hq, List.length_cons] at h
    exact Nat.le_of_succ_le h
  · exact ⟨⟨rfl, id, id, fun _ h => h, id⟩, SameMemory.refl _⟩

/-- Consuming instruction bytes is a reading that moves IP past them (R26, R70). -/
theorem State.fetched_form (s : State) (n : Nat) :
    Reading { s with IP := s.IP + BitVec.ofNat 16 n } (s.fetched n) := by
  unfold State.fetched
  induction n generalizing s with
  | zero =>
    have : s.IP + BitVec.ofNat 16 0 = s.IP := by simp
    rw [this]
    exact Reading.refl s
  | succ n ih =>
    have h := ih s.fetchOne.2
    rw [State.fetchOne_IP] at h
    have e : s.IP + 1#16 + BitVec.ofNat 16 n = s.IP + BitVec.ofNat 16 (n + 1) := by
      rw [BitVec.add_assoc, Nat.add_comm n 1, BitVec.ofNat_add]
    rw [e] at h
    exact (s.fetchOne_form.withIP (s.IP + BitVec.ofNat 16 (n + 1))).trans h

/-- An instruction with its prefixes: a prefix acts and the fetch goes on, anything else starts (R101). -/
theorem State.runFrom_decoded {n : Nat} {s : State} {i : Instr} {rest : List Byte}
    (hd : decode s.codeBytes = .ok (i, rest)) :
    State.runFrom (n + 1) s =
      if isPrefixInstr i then
        match exec i (s.fetched (6 - rest.length)) with
        | .next u => State.runFrom n u
        | .fault r => .fault r
        | .refused r => .refused r
      else (s.fetched (6 - rest.length)).start i := by
  simp only [State.runFrom, hd] <;> rfl

theorem State.runFrom_undecodable {n : Nat} {s : State} {e : DecodeError} (hd : decode s.codeBytes = .error e) :
    State.runFrom (n + 1) s = .refused (.undecodable e) := by
  simp only [State.runFrom, hd]

end Sys2Proof.Machine
end

