-- ==== Sys2Proof/Tests/Slice0.lean ====
section
/-! SUPPORT. Tests of the model. The expected values are those of spec/95_test_vectors.md, named beside each test,
or worked out by hand from the rule named; the encodings are written out bit by bit from the encodings of
30_encoding.md. The last part shows, for each statement with hypotheses, operands and a state that meet them. -/

namespace Sys2Proof.Tests

open Sys2Proof Sys2Proof.Machine

/-! ## Helpers -/

/-- The start state of the vectors: CS:IP = 1000H:0100H, DS = 2000H, ES = 3000H, SS = 4000H, SP = 0100H. -/
def base : State :=
  { State.reset with
    CS := 0x1000#16, IP := 0x0100#16, DS := 0x2000#16, ES := 0x3000#16, SS := 0x4000#16, SP := 0x0100#16,
    fresh := false }

/-- One step from a state with these bytes at CS:IP answers a next state that passes the check. -/
def after (s : State) (bs : List Byte) (p : State → Bool) : Bool :=
  match step (s.place bs) with
  | .next t => p t
  | _ => false

/-- One step from a state as it stands answers a next state that passes the check. -/
def stepped (s : State) (p : State → Bool) : Bool :=
  match step s with
  | .next t => p t
  | _ => false

/-- The bytes decode to the instruction, whole, and are its encoding. -/
def decodesTo (bs : List Byte) (i : Instr) : Bool :=
  match decode bs with
  | .ok (j, rest) => decide (j = i ∧ rest = [] ∧ encode i = bs)
  | .error _ => false

/-- The same for a list. -/
def decodesAll (l : List (List Byte × Instr)) : Bool := l.all fun p => decodesTo p.1 p.2

/-- The bytes are refused with this reason. -/
def refuses (bs : List Byte) (e : DecodeError) : Bool :=
  match decode bs with
  | .ok _ => false
  | .error f => decide (f = e)

/-- The pins of one step with nothing asked for; TEST is low. -/
def quiet : PinSample :=
  { reset := false, nmi := false, intr := false, intaType := 0x20#8, testLow := true, ready := true, requests := [],
    gaps := [], inside := { nmi := false, intr := false, intaType := 0x20#8 } }

/-- The same with READY low. -/
def slow : PinSample := { quiet with ready := false }

/-- One step from a state with these bytes at CS:IP and these pins answers a next state that passes the check. -/
def afterWith (s : State) (bs : List Byte) (q : PinSample) (p : State → Bool) : Bool :=
  match step { s.place bs with env := [q] } with
  | .next t => p t
  | _ => false

/-- What an instruction asks of the bus, without the prefetches: on a halted chip, which prefetches nothing (R408), it
answers a next state that passes the check. -/
def traced (s : State) (i : Instr) (p : State → Bool) : Bool :=
  match exec i { s with halted := true } with
  | .next t => p t
  | _ => false

/-- What one cycle of the trace is. -/
def shown (c : BusCycle) : BusKind × Option PAddr × Option Byte := (c.kind, c.addr, c.data)

/-- A request by the first pin for one byte. -/
def ask (a : PAddr) (v : Byte) : BusRequest := { pin := .first, writes := [(a, v)] }

/-- A machine with other masters on the bus, in a mode. -/
def shared (m : BusMode) : State := { base with params := { Params.default with mode := m, otherMasters := true } }

/-! ## Well-formedness -/

/-- "(BP) without a displacement" has no encoding (R112); with a displacement it has one. -/
theorem test_wf_refuses_bp : (Instr.movRmReg .toReg .word (.mem (.based .bp .none)) .axAl).wf = false := by decide

theorem test_wf_refuses_bp_lea : (Instr.lea .ax (.based .bp .none)).wf = false := by decide

theorem test_wf_accepts_bp_disp : (Instr.movRmReg .toReg .word (.mem (.based .bp (.d8 0#8))) .axAl).wf = true := by
  decide

/-! ## Decoding, from the encodings of 30_encoding.md -/


/-! The sample words of Sys2Proof/Safety.lean, one for every row and more, each the encoding of its instruction too. -/

theorem test_decode_transfer : decodesAll wordsTransfer = true := by decide

theorem test_decode_add : decodesAll wordsAdd = true := by decide

theorem test_decode_subtract : decodesAll wordsSubtract = true := by decide

theorem test_decode_multiply : decodesAll wordsMultiply = true := by decide

theorem test_decode_logic : decodesAll wordsLogic = true := by decide

theorem test_decode_string : decodesAll wordsString = true := by decide

theorem test_decode_transfer_of_control : decodesAll wordsTransferOfControl = true := by decide

theorem test_decode_conditional_jump : decodesAll wordsConditionalJump = true := by decide

theorem test_decode_interrupt : decodesAll wordsInterrupt = true := by decide

theorem test_decode_processor : decodesAll wordsProcessor = true := by decide

theorem test_decode_reg16 : decodesAll wordsReg16 = true := by decide

theorem test_decode_reg_num : decodesAll wordsRegNum = true := by decide

theorem test_decode_r_m : decodesAll wordsRM = true := by decide

theorem test_decode_s_reg : decodesAll wordsSReg = true := by decide

theorem test_decode_more : decodesAll wordsMore = true := by decide

/-- The host's numbering puts the opcode byte on top: 8B07H is MOV AX, [BX]; 90H is XCHG AX, AX. -/
theorem test_table_word : decodeTableWord 16 0x8B07 = some (.movRmReg .toReg .word (.mem (.based .bx .none)) .axAl)
    ∧ decodeTableWord 8 0x90 = some (.xchgAccReg .ax) := by decide

/-- X.1 to X.9: first bytes without a row. -/
theorem test_refuses_opcodes :
    (refuses [0x0F#8] .popCs && refuses [0x60#8] (.unlistedOpcode 0x60#8) && refuses [0x6F#8] (.unlistedOpcode 0x6F#8)
      && refuses [0xC0#8] (.unlistedOpcode 0xC0#8) && refuses [0xC1#8] (.unlistedOpcode 0xC1#8)
      && refuses [0xC8#8] (.unlistedOpcode 0xC8#8) && refuses [0xC9#8] (.unlistedOpcode 0xC9#8)
      && refuses [0xD6#8] (.unlistedOpcode 0xD6#8) && refuses [0xF1#8] (.unlistedOpcode 0xF1#8)) = true := by decide

/-- X.10 to X.28: second bytes a group does not list. -/
theorem test_refuses_extensions :
    (refuses [0x82#8, 0xC8#8, 0x01#8] (.unlistedExtension 0x82#8 0xC8#8)
      && refuses [0x83#8, 0xE0#8, 0x01#8] (.unlistedExtension 0x83#8 0xE0#8)
      && refuses [0x8C#8, 0xE0#8] (.segmentFieldBit5 0x8C#8 0xE0#8) && refuses [0x8E#8, 0xC8#8] (.movCs 0xC8#8)
      && refuses [0x8F#8, 0xC8#8] (.unlistedExtension 0x8F#8 0xC8#8)
      && refuses [0xC6#8, 0xC8#8, 0x00#8] (.unlistedExtension 0xC6#8 0xC8#8)
      && refuses [0xD3#8, 0xF0#8] (.unlistedExtension 0xD3#8 0xF0#8)
      && refuses [0xD4#8, 0x0B#8] (.adjustBase 0xD4#8 0x0B#8)
      && refuses [0xF7#8, 0x08#8] (.unlistedExtension 0xF7#8 0x08#8)
      && refuses [0xFE#8, 0x30#8] (.unlistedExtension 0xFE#8 0x30#8)
      && refuses [0xFF#8, 0x38#8] (.unlistedExtension 0xFF#8 0x38#8)) = true := by decide

/-- X.29 to X.33: a register where memory is needed. -/
theorem test_refuses_register_forms :
    (refuses [0xFF#8, 0xD8#8] (.registerForm 0xFF#8 0xD8#8) && refuses [0xFF#8, 0xE8#8] (.registerForm 0xFF#8 0xE8#8)
      && refuses [0x8D#8, 0xC0#8] (.registerForm 0x8D#8 0xC0#8)
      && refuses [0xC4#8, 0xC0#8] (.registerForm 0xC4#8 0xC0#8)
      && refuses [0xC5#8, 0xC3#8] (.registerForm 0xC5#8 0xC3#8)) = true := by decide

/-- X.1: a step on bytes that do not decode is refused by name. -/
theorem test_step_refuses :
    (match step (base.place [0x60#8]) with
      | .refused r => decide (r = .undecodable (.unlistedOpcode 0x60#8))
      | _ => false) = true := by decide

/-- X.34: after F3H, 90H is refused by the step. -/
theorem test_refuses_rep_nop :
    (match step (base.place [0xF3#8, 0x90#8]) with
      | .refused r => decide (r = .repeatBeforeNonString (.xchgAccReg .ax))
      | _ => false) = true := by decide

/-! ## One step of each instruction -/

/-- T.2. -/
theorem test_movRmReg :
    after { base with BX := 0x0200#16, mem := [(0x20200, 0x78#8), (0x20201, 0x56#8)] }
      [0x8B#8, 0x1F#8]
    (fun t => t.BX == 0x5678#16) = true := by decide

/-- L.7. -/
theorem test_movRmImm : after { base with BX := 0x0010#16 } [0xC7#8, 0x87#8, 0x00#8, 0x01#8, 0xCD#8, 0xAB#8]
    (fun t => t.byteAt 0x20110#20 == 0xCD#8 && t.byteAt 0x20111#20 == 0xAB#8) = true := by decide

/-- L.10. -/
theorem test_movRegImm : after { base with CX := 0x1200#16 } [0xB1#8, 0xFF#8]
    (fun t => t.CX == 0x12FF#16) = true := by decide

/-- T.6. -/
theorem test_movAccMem : after { base with AX := 0xFF00#16, mem := [(0x2FFFF, 0x42#8)] } [0xA0#8, 0xFF#8, 0xFF#8]
    (fun t => t.AX == 0xFF42#16) = true := by decide

/-- T.5. -/
theorem test_movMemAcc : after { base with DS := 0xFFFF#16, AX := 0xCAFE#16 } [0xA3#8, 0x10#8, 0x00#8]
    (fun t => t.byteAt 0x00000#20 == 0xFE#8 && t.byteAt 0x00001#20 == 0xCA#8) = true := by decide

/-- T.8. -/
theorem test_movSregRm : after { base with BX := 0x0010#16, mem := [(0x20011, 0x30#8)] } [0x8E#8, 0x1F#8]
    (fun t => t.DS == 0x3000#16) = true := by decide

/-- T.9. -/
theorem test_movRmSreg : after { base with BX := 0x0010#16 } [0x8C#8, 0x1F#8]
    (fun t => t.byteAt 0x20010#20 == 0x00#8 && t.byteAt 0x20011#20 == 0x20#8) = true := by decide

/-- A.7. -/
theorem test_pushRm : after { base with BX := 0xBEEF#16 } [0xFF#8, 0xF3#8]
    (fun t => t.byteAt 0x400FE#20 == 0xEF#8 && t.byteAt 0x400FF#20 == 0xBE#8 && t.SP == 0x00FE#16) = true := by decide

/-- T.11. -/
theorem test_pushReg : after base [0x54#8]
    (fun t => t.byteAt 0x400FE#20 == 0xFE#8 && t.byteAt 0x400FF#20 == 0x00#8 && t.SP == 0x00FE#16) = true := by decide

/-- T.13. -/
theorem test_pushReg_wraps : after { base with AX := 0x1234#16, SP := 0x0001#16 } [0x50#8]
    (fun t => t.byteAt 0x40000#20 == 0x12#8 && t.byteAt 0x4FFFF#20 == 0x34#8 && t.SP == 0xFFFF#16) = true := by decide

/-- A.9. -/
theorem test_pushSreg : after base [0x0E#8]
    (fun t => t.byteAt 0x400FE#20 == 0x00#8 && t.byteAt 0x400FF#20 == 0x10#8 && t.SP == 0x00FE#16) = true := by decide

/-- A.6. -/
theorem test_popRm : after { base with mem := [(0x40100, 0x34#8), (0x40101, 0x12#8)] } [0x8F#8, 0xC3#8]
    (fun t => t.BX == 0x1234#16 && t.SP == 0x0102#16) = true := by decide

/-- T.14. -/
theorem test_popReg : after { base with mem := [(0x40101, 0x20#8)] } [0x5C#8]
    (fun t => t.SP == 0x2000#16) = true := by decide

/-- T.16. -/
theorem test_popSreg : after { base with mem := [(0x40101, 0x50#8)] } [0x17#8]
    (fun t => t.SS == 0x5000#16 && t.SP == 0x0102#16) = true := by decide

/-- T.20. -/
theorem test_xchgRmReg :
    after { base with BX := 0x0020#16, AX := 0x1111#16, mem := [(0x20020, 0x22#8), (0x20021, 0x33#8)] }
      [0x87#8, 0x07#8]
    (fun t => t.byteAt 0x20020#20 == 0x11#8 && t.byteAt 0x20021#20 == 0x11#8 && t.AX == 0x3322#16) = true := by decide

/-- T.22. -/
theorem test_xchgAccReg : after { base with AX := 0x0200#16 } [0x94#8]
    (fun t => t.AX == 0x0100#16 && t.SP == 0x0200#16) = true := by decide

/-- T.23. -/
theorem test_inFixed : after { base with portIn := [0x34#8, 0x12#8] } [0xE5#8, 0xFF#8]
    (fun t => t.AX == 0x1234#16) = true := by decide

/-- T.24. -/
theorem test_inVar : after { base with DX := 0xFFFF#16, portIn := [0xCD#8, 0xAB#8] } [0xED#8]
    (fun t => t.AX == 0xABCD#16) = true := by decide

/-- T.28. -/
theorem test_xlat : after { base with BX := 0xFFF0#16, AX := 0x12FF#16, mem := [(0x200EF, 0x99#8)] } [0xD7#8]
    (fun t => t.AX == 0x1299#16) = true := by decide

/-- T.30. -/
theorem test_lea : after { base with BX := 0x0000#16 } [0x8D#8, 0x5F#8, 0xFF#8]
    (fun t => t.BX == 0xFFFF#16) = true := by decide

/-- T.32. -/
theorem test_lds :
    after { base with BX := 0x0040#16, mem := [(0x20040, 0x10#8), (0x20043, 0x70#8)] }
      [0xC5#8, 0x1F#8]
    (fun t => t.BX == 0x0010#16 && t.DS == 0x7000#16) = true := by decide

/-- T.33. -/
theorem test_les :
    after { base with mem := [(0x20000, 0x33#8), (0x20001, 0x44#8), (0x2FFFE, 0x11#8), (0x2FFFF, 0x22#8)] }
      [0xC4#8, 0x36#8, 0xFE#8, 0xFF#8]
    (fun t => t.SI == 0x2211#16 && t.ES == 0x4433#16) = true := by decide

/-- T.34. -/
theorem test_lahf :
    after
      { base with
        flags :=
          { Flags.clear with SF := true, ZF := true, AF := true, PF := true, CF := true, OF := true } }
      [0x9F#8]
    (fun t => t.AX == 0xD700#16) = true := by decide

/-- T.35. -/
theorem test_sahf :
    after
      { base with
        flags :=
          { Flags.clear with SF := true, ZF := true, AF := true, PF := true, CF := true, OF := true, DF := true } }
      [0x9E#8]
    (fun t => !t.flags.CF && t.flags.OF && !t.flags.SF) = true := by decide

/-- N.3. -/
theorem test_addRmReg : after { base with AX := 0x00FF#16, BX := 0x0001#16 } [0x00#8, 0xD8#8]
    (fun t => t.AX == 0x0000#16 && !t.flags.OF && t.flags.CF && !t.flags.SF) = true := by decide

/-- L.2. -/
theorem test_addRmImm : after { base with mem := [(0x21234, 0x01#8)] } [0x83#8, 0x06#8, 0x34#8, 0x12#8, 0xFF#8]
    (fun t => t.byteAt 0x21234#20 == 0x00#8 && t.byteAt 0x21235#20 == 0x00#8
      && t.flags.CF && t.flags.ZF) = true := by decide

/-- L.11. -/
theorem test_addAccImm : after { base with AX := 0x0001#16 } [0x05#8, 0xFF#8, 0xFF#8]
    (fun t => t.AX == 0x0000#16 && t.flags.CF && t.flags.ZF) = true := by decide

/-- N.7. -/
theorem test_adcRmReg :
    after { base with AX := 0x007F#16, BX := 0x0000#16, flags := { Flags.clear with CF := true } }
      [0x10#8, 0xD8#8]
    (fun t => t.reg8 .al == 0x80#8 && t.flags.OF && !t.flags.CF && t.flags.SF) = true := by decide

/-- N.9. -/
theorem test_incRm : after { base with AX := 0x007F#16, flags := { Flags.clear with CF := true } } [0xFE#8, 0xC0#8]
    (fun t => t.reg8 .al == 0x80#8 && t.flags.OF && t.flags.CF && t.flags.SF) = true := by decide

/-- N.11. -/
theorem test_incReg : after { base with DI := 0x00FF#16 } [0x47#8]
    (fun t => t.DI == 0x0100#16 && !t.flags.OF && !t.flags.CF && !t.flags.SF) = true := by decide

/-- N.31. -/
theorem test_aaa : after { base with AX := 0x0012#16, flags := { Flags.clear with AF := true } } [0x37#8]
    (fun t => t.AX == 0x0108#16 && t.flags.CF && t.flags.AF) = true := by decide

/-- N.37. -/
theorem test_daa : after { base with AX := 0x0022#16, flags := { Flags.clear with CF := true } } [0x27#8]
    (fun t => t.reg8 .al == 0x82#8 && t.flags.CF && t.flags.SF && !t.flags.ZF) = true := by decide

/-- N.15. -/
theorem test_subRmReg : after { base with AX := 0x007F#16, BX := 0x00FF#16 } [0x28#8, 0xD8#8]
    (fun t => t.reg8 .al == 0x80#8 && t.flags.OF && t.flags.CF && t.flags.SF) = true := by decide

/-- N.17. -/
theorem test_sbbRmReg :
    after { base with AX := 0x0080#16, BX := 0x0000#16, flags := { Flags.clear with CF := true } }
      [0x18#8, 0xD8#8]
    (fun t => t.reg8 .al == 0x7F#8 && t.flags.OF && !t.flags.CF && !t.flags.SF) = true := by decide

/-- N.18. -/
theorem test_decRm : after { base with AX := 0x0000#16 } [0xFE#8, 0xC8#8]
    (fun t => t.reg8 .al == 0xFF#8 && !t.flags.OF && !t.flags.CF && t.flags.SF) = true := by decide

/-- N.20. -/
theorem test_decReg : after { base with AX := 0x0000#16 } [0x48#8]
    (fun t => t.AX == 0xFFFF#16 && !t.flags.OF && !t.flags.CF && t.flags.SF) = true := by decide

/-- N.21. -/
theorem test_negRm : after { base with AX := 0x0080#16 } [0xF6#8, 0xD8#8]
    (fun t => t.reg8 .al == 0x80#8 && t.flags.OF && t.flags.CF && t.flags.SF) = true := by decide

/-- N.26. -/
theorem test_cmpRmReg : after { base with AX := 0x8000#16, BX := 0x0001#16 } [0x3B#8, 0xC3#8]
    (fun t => t.AX == 0x8000#16 && t.flags.OF && !t.flags.CF && !t.flags.SF) = true := by decide

/-- N.27. -/
theorem test_cmpRmImm : after { base with BX := 0xFFFF#16 } [0x83#8, 0xFB#8, 0xFF#8]
    (fun t => t.BX == 0xFFFF#16 && !t.flags.OF && !t.flags.CF && !t.flags.SF) = true := by decide

/-- N.28. -/
theorem test_cmpAccImm : after { base with AX := 0x7FFF#16 } [0x3D#8, 0x00#8, 0x80#8]
    (fun t => t.flags.OF && t.flags.CF && t.flags.SF) = true := by decide

/-- N.34. -/
theorem test_aas : after { base with AX := 0x020F#16 } [0x3F#8]
    (fun t => t.AX == 0x0109#16 && t.flags.CF && t.flags.AF) = true := by decide

/-- N.40. -/
theorem test_das :
    after { base with AX := 0x00FF#16, flags := { Flags.clear with CF := true, AF := true } }
      [0x2F#8]
    (fun t => t.reg8 .al == 0x99#8 && t.flags.CF && t.flags.SF && !t.flags.ZF) = true := by decide

/-- N.52. -/
theorem test_mulRm : after { base with AX := 0x0100#16, DX := 0xFFFF#16 } [0xF7#8, 0xE0#8]
    (fun t => t.DX == 0x0001#16 && t.AX == 0x0000#16 && t.flags.OF && t.flags.CF) = true := by decide

/-- N.55. -/
theorem test_imulRm : after { base with AX := 0x0040#16, BX := 0x0002#16 } [0xF6#8, 0xEB#8]
    (fun t => t.AX == 0x0080#16 && t.flags.OF && t.flags.CF) = true := by decide

/-- N.44. -/
theorem test_aam : after { base with AX := 0x1200#16 } [0xD4#8, 0x0A#8]
    (fun t => t.AX == 0x0000#16 && !t.flags.SF && t.flags.ZF && t.flags.PF) = true := by decide

/-- N.65. -/
theorem test_divRm : after { base with DX := 0x1234#16, AX := 0x5678#16, CX := 0x1235#16 } [0xF7#8, 0xF1#8]
    (fun t => t.AX == 0xFFF6#16 && t.DX == 0x0C8A#16) = true := by decide

/-- N.69. -/
theorem test_idivRm : after { base with AX := 0x0007#16, BX := 0x00FE#16 } [0xF6#8, 0xFB#8]
    (fun t => t.AX == 0x01FD#16) = true := by decide

/-- N.46. -/
theorem test_aad : after { base with AX := 0xFFFF#16 } [0xD5#8, 0x0A#8]
    (fun t => t.AX == 0x00F5#16 && t.flags.SF && !t.flags.ZF && t.flags.PF) = true := by decide

/-- N.76. -/
theorem test_cbw : after { base with AX := 0x1280#16 } [0x98#8]
    (fun t => t.AX == 0xFF80#16) = true := by decide

/-- N.78. -/
theorem test_cwd : after { base with AX := 0x8000#16, DX := 0x1234#16 } [0x99#8]
    (fun t => t.DX == 0xFFFF#16) = true := by decide

/-- G.2. -/
theorem test_notRm :
    after { base with mem := [(0x20200, 0x0F#8), (0x20201, 0xF0#8)] }
      [0xF7#8, 0x16#8, 0x00#8, 0x02#8]
    (fun t => t.byteAt 0x20200#20 == 0xF0#8 && t.byteAt 0x20201#20 == 0x0F#8) = true := by decide

/-- G.28. -/
theorem test_shl : after { base with CX := 0x0003#16 } [0xD2#8, 0xE1#8]
    (fun t => t.CX == 0x0018#16 && !t.flags.CF && !t.flags.SF && !t.flags.ZF) = true := by decide

/-- G.27. -/
theorem test_shl_unmasked : after { base with AX := 0xFFFF#16, CX := 0x0020#16 } [0xD3#8, 0xE0#8]
    (fun t => t.AX == 0x0000#16 && !t.flags.CF && !t.flags.SF && t.flags.ZF) = true := by decide

/-- G.31. -/
theorem test_shr : after { base with AX := 0x0080#16, CX := 0x0008#16 } [0xD2#8, 0xE8#8]
    (fun t => t.reg8 .al == 0x00#8 && t.flags.CF && !t.flags.SF && t.flags.ZF) = true := by decide

/-- G.37. -/
theorem test_sar : after { base with AX := 0x0080#16, CX := 0x0008#16 } [0xD2#8, 0xF8#8]
    (fun t => t.reg8 .al == 0xFF#8 && t.flags.CF && t.flags.SF && !t.flags.ZF) = true := by decide

/-- G.43. -/
theorem test_rol : after { base with AX := 0x1234#16, CX := 0x0004#16 } [0xD3#8, 0xC0#8]
    (fun t => t.AX == 0x2341#16 && t.flags.CF && !t.flags.SF && !t.flags.ZF) = true := by decide

/-- G.47. -/
theorem test_ror : after { base with AX := 0x1234#16, CX := 0x0004#16 } [0xD3#8, 0xC8#8]
    (fun t => t.AX == 0x4123#16 && !t.flags.CF && !t.flags.SF && !t.flags.ZF) = true := by decide

/-- G.50. -/
theorem test_rcl : after { base with AX := 0x00A5#16, CX := 0x0004#16 } [0xD2#8, 0xD0#8]
    (fun t => t.reg8 .al == 0x55#8 && !t.flags.CF && !t.flags.SF && !t.flags.ZF) = true := by decide

/-- G.55. -/
theorem test_rcr : after { base with flags := { Flags.clear with CF := true } } [0xD1#8, 0x1E#8, 0x00#8, 0x02#8]
    (fun t => t.byteAt 0x20200#20 == 0x00#8 && t.byteAt 0x20201#20 == 0x80#8
      && t.flags.OF && !t.flags.CF) = true := by decide

/-- G.4. -/
theorem test_andRmReg : after { base with AX := 0x8003#16 } [0x21#8, 0xC0#8]
    (fun t => !t.flags.OF && !t.flags.CF && t.flags.SF) = true := by decide

/-- G.6. -/
theorem test_andRmImm : after { base with AX := 0xFF00#16 } [0x80#8, 0xE4#8, 0x7F#8]
    (fun t => t.AX == 0x7F00#16 && !t.flags.OF && !t.flags.CF && !t.flags.SF) = true := by decide

/-- G.5. -/
theorem test_andAccImm : after { base with AX := 0x1234#16 } [0x25#8, 0x0F#8, 0x0F#8]
    (fun t => t.AX == 0x0204#16 && !t.flags.OF && !t.flags.CF && !t.flags.SF) = true := by decide

/-- G.7. -/
theorem test_testRmReg :
    after { base with AX := 0x0000#16, flags := { Flags.clear with CF := true } }
      [0x84#8, 0xC0#8]
    (fun t => t.AX == 0x0000#16 && !t.flags.OF && !t.flags.CF && !t.flags.SF) = true := by decide

/-- G.9. -/
theorem test_testRmImm : after { base with BX := 0x00FE#16 } [0xF6#8, 0xC3#8, 0x01#8]
    (fun t => t.BX == 0x00FE#16 && !t.flags.OF && !t.flags.CF && !t.flags.SF) = true := by decide

/-- G.8. -/
theorem test_testAccImm : after { base with AX := 0x00FF#16 } [0xA8#8, 0x80#8]
    (fun t => t.AX == 0x00FF#16 && !t.flags.OF && !t.flags.CF && t.flags.SF) = true := by decide

/-- G.10. -/
theorem test_orRmReg :
    after { base with AX := 0x000F#16, BX := 0x00F0#16, flags := { Flags.clear with CF := true } }
      [0x08#8, 0xD8#8]
    (fun t => t.reg8 .al == 0xFF#8 && !t.flags.OF && !t.flags.CF && t.flags.SF) = true := by decide

/-- G.12. -/
theorem test_orRmImm : after { base with AX := 0x0001#16 } [0x80#8, 0xCC#8, 0x80#8]
    (fun t => t.AX == 0x8001#16 && !t.flags.OF && !t.flags.CF && t.flags.SF) = true := by decide

/-- G.13. -/
theorem test_orAccImm : after { base with AX := 0x0001#16 } [0x0D#8, 0x00#8, 0x80#8]
    (fun t => t.AX == 0x8001#16 && !t.flags.OF && !t.flags.CF && t.flags.SF) = true := by decide

/-- G.14. -/
theorem test_xorRmReg :
    after { base with AX := 0x12FF#16, flags := { Flags.clear with CF := true } }
      [0x30#8, 0xC0#8]
    (fun t => t.AX == 0x1200#16 && !t.flags.OF && !t.flags.CF && !t.flags.SF) = true := by decide

/-- G.17. -/
theorem test_xorRmImm : after { base with BX := 0x1234#16 } [0x81#8, 0xF3#8, 0xFF#8, 0xFF#8]
    (fun t => t.BX == 0xEDCB#16 && !t.flags.OF && !t.flags.CF && t.flags.SF) = true := by decide

/-- G.16. -/
theorem test_xorAccImm : after { base with AX := 0x00A5#16 } [0x34#8, 0xFF#8]
    (fun t => t.reg8 .al == 0x5A#8 && !t.flags.OF && !t.flags.CF && !t.flags.SF) = true := by decide

/-- S.3. -/
theorem test_movs :
    after { base with SI := 0x0010#16, DI := 0xFFFF#16, mem := [(0x20010, 0x34#8), (0x20011, 0x12#8)] }
      [0xA5#8]
    (fun t => t.byteAt 0x30000#20 == 0x12#8 && t.byteAt 0x3FFFF#20 == 0x34#8
      && t.SI == 0x0012#16 && t.DI == 0x0001#16) = true := by decide

/-- S.9. -/
theorem test_cmps :
    after { base with SI := 0x0010#16, DI := 0x0020#16, mem := [(0x20011, 0x80#8), (0x30020, 0x01#8)] }
      [0xA7#8]
    (fun t => t.SI == 0x0012#16 && t.DI == 0x0022#16 && t.flags.OF && !t.flags.CF && !t.flags.SF) = true := by decide

/-- S.15. -/
theorem test_scas :
    after
      { base with
        AX := 0x1234#16, DI := 0x0010#16, flags := { Flags.clear with DF := true },
        mem := [(0x30010, 0x34#8), (0x30011, 0x12#8)] }
      [0xAF#8]
    (fun t => t.DI == 0x000E#16 && !t.flags.OF && !t.flags.CF && !t.flags.SF) = true := by decide

/-- S.21. -/
theorem test_lods :
    after
      { base with
        SI := 0x0010#16, flags := { Flags.clear with DF := true },
        mem := [(0x20010, 0xCD#8), (0x20011, 0xAB#8)] }
      [0xAD#8]
    (fun t => t.AX == 0xABCD#16 && t.SI == 0x000E#16) = true := by decide

/-- S.24. -/
theorem test_stos : after { base with AX := 0x12EE#16, DI := 0xFFFF#16 } [0xAA#8]
    (fun t => t.byteAt 0x3FFFF#20 == 0xEE#8 && t.DI == 0x0000#16) = true := by decide

/-- C.2. -/
theorem test_callNear : after { base with IP := 0x2000#16 } [0xE8#8, 0x00#8, 0xF0#8]
    (fun t => t.byteAt 0x400FE#20 == 0x03#8 && t.byteAt 0x400FF#20 == 0x20#8
      && t.SP == 0x00FE#16 && t.IP == 0x1003#16) = true := by decide

/-- C.4. -/
theorem test_callRm :
    after { base with DS := 0x4000#16, mem := [(0x400FF, 0x30#8)] }
      [0xFF#8, 0x16#8, 0xFE#8, 0x00#8]
    (fun t => t.byteAt 0x400FE#20 == 0x04#8 && t.byteAt 0x400FF#20 == 0x01#8
      && t.SP == 0x00FE#16 && t.IP == 0x3000#16) = true := by decide

/-- C.5. -/
theorem test_callFar : after base [0x9A#8, 0x78#8, 0x56#8, 0x34#8, 0x12#8]
    (fun t => t.byteAt 0x400FC#20 == 0x05#8 && t.byteAt 0x400FD#20 == 0x01#8
      && t.byteAt 0x400FE#20 == 0x00#8 && t.byteAt 0x400FF#20 == 0x10#8 && t.CS == 0x1234#16
      && t.SP == 0x00FC#16 && t.IP == 0x5678#16) = true := by decide

/-- C.6. -/
theorem test_callMemFar :
    after { base with BX := 0x0010#16, mem := [(0x20013, 0x02#8), (0x20015, 0x60#8)] }
      [0xFF#8, 0x5F#8, 0x02#8]
    (fun t => t.byteAt 0x400FC#20 == 0x03#8 && t.byteAt 0x400FD#20 == 0x01#8
      && t.byteAt 0x400FE#20 == 0x00#8 && t.byteAt 0x400FF#20 == 0x10#8 && t.CS == 0x6000#16
      && t.SP == 0x00FC#16 && t.IP == 0x0200#16) = true := by decide

/-- C.8. -/
theorem test_jmpNear : after { base with IP := 0x8001#16 } [0xE9#8, 0xFC#8, 0x7F#8]
    (fun t => t.IP == 0x0000#16) = true := by decide

/-- C.11. -/
theorem test_jmpShort : after { base with IP := 0x0010#16 } [0xEB#8, 0x80#8]
    (fun t => t.IP == 0xFF92#16) = true := by decide

/-- C.12. -/
theorem test_jmpRm : after { base with BX := 0xFFFF#16 } [0xFF#8, 0xE3#8]
    (fun t => t.IP == 0xFFFF#16) = true := by decide

/-- C.14. -/
theorem test_jmpFar : after base [0xEA#8, 0x00#8, 0x00#8, 0xFF#8, 0xFF#8]
    (fun t => t.CS == 0xFFFF#16 && t.IP == 0x0000#16) = true := by decide

/-- C.15. -/
theorem test_jmpMemFar :
    after { base with mem := [(0x20300, 0x05#8), (0x20303, 0xF0#8)] }
      [0xFF#8, 0x2E#8, 0x00#8, 0x03#8]
    (fun t => t.CS == 0xF000#16 && t.IP == 0x0005#16) = true := by decide

/-- C.16. -/
theorem test_ret : after { base with SP := 0xFFFE#16, mem := [(0x4FFFF, 0x02#8)] } [0xC3#8]
    (fun t => t.SP == 0x0000#16 && t.IP == 0x0200#16) = true := by decide

/-- C.17. -/
theorem test_retImm : after { base with mem := [(0x40101, 0x02#8)] } [0xC2#8, 0xFF#8, 0xFF#8]
    (fun t => t.SP == 0x0101#16 && t.IP == 0x0200#16) = true := by decide

/-- C.19. -/
theorem test_retf : after { base with mem := [(0x40100, 0x34#8), (0x40101, 0x12#8), (0x40103, 0x80#8)] } [0xCB#8]
    (fun t => t.CS == 0x8000#16 && t.SP == 0x0104#16 && t.IP == 0x1234#16) = true := by decide

/-- C.20. -/
theorem test_retfImm :
    after { base with mem := [(0x40100, 0x34#8), (0x40101, 0x12#8), (0x40103, 0x80#8)] }
      [0xCA#8, 0x04#8, 0x00#8]
    (fun t => t.CS == 0x8000#16 && t.SP == 0x0108#16 && t.IP == 0x1234#16) = true := by decide

/-- C.22. -/
theorem test_loop : after { base with CX := 0x0000#16 } [0xE2#8, 0xFE#8]
    (fun t => t.CX == 0xFFFF#16 && t.IP == 0x0100#16) = true := by decide

/-- C.26. -/
theorem test_loopz : after { base with CX := 0x0001#16, flags := { Flags.clear with ZF := true } } [0xE1#8, 0xFE#8]
    (fun t => t.CX == 0x0000#16 && t.IP == 0x0102#16) = true := by decide

/-- C.29. -/
theorem test_loopnz : after { base with CX := 0x0000#16 } [0xE0#8, 0xFE#8]
    (fun t => t.CX == 0xFFFF#16 && t.IP == 0x0100#16) = true := by decide

/-- C.31. -/
theorem test_jcxz : after { base with CX := 0x0100#16 } [0xE3#8, 0xFE#8]
    (fun t => t.IP == 0x0102#16) = true := by decide

/-- E.14, E.19: an address that wraps, and DS: over the SS default. -/
theorem test_address_wraps : after { base with BP := 0x2000#16, mem := [(0x40000, 0xCD#8), (0x40001, 0xAB#8)] }
    [0x8B#8, 0x86#8, 0x00#8, 0xE0#8] (fun t => t.AX == 0xABCD#16 && t.IP == 0x0104#16) = true := by decide

theorem test_segment_override : after { base with BP := 0x2000#16, mem := [(0x22000, 0xCD#8)] }
    [0x3E#8, 0x8B#8, 0x46#8, 0x00#8] (fun t => t.AX == 0x00CD#16 && t.ovr == none && t.IP == 0x0104#16) = true := by
  decide

/-- T.26, T.27: the cycles, newest first. -/
theorem test_outFixed : traced { base with AX := 0xBEEF#16 } (.outFixed .word 0x10#8)
    (fun t => t.bus.map shown
      == [(.ioWrite, some 0x00011#20, some 0xBE#8), (.ioWrite, some 0x00010#20, some 0xEF#8)]) = true := by decide

theorem test_outVar : traced { base with AX := 0x12A5#16, DX := 0x0378#16 } (.outVar .byte)
    (fun t => t.bus.map shown == [(.ioWrite, some 0x00378#20, some 0xA5#8)]) = true := by decide

/-- T.17: FLAGS of CF, ZF, SF, OF and DF is FCC3H. -/
theorem test_pushf : after
    { base with flags := { Flags.clear with CF := true, ZF := true, SF := true, OF := true, DF := true } } [0x9C#8]
    (fun t => t.byteAt 0x400FE#20 == 0xC3#8 && t.byteAt 0x400FF#20 == 0xFC#8 && t.SP == 0x00FE#16) = true := by decide

/-- T.18: FEFFH sets every flag but TF. -/
theorem test_popf : after { base with mem := [(0x40100, 0xFF#8), (0x40101, 0xFE#8)] } [0x9D#8]
    (fun t => t.flags.image 0xF002#16 == 0xFED7#16 && !t.flags.TF && t.SP == 0x0102#16) = true := by decide

/-- By hand from R205 and R115: 0000H + FFFFH + 1. -/
theorem test_adcRmImm : after { base with flags := { Flags.clear with CF := true } } [0x83#8, 0xD3#8, 0xFF#8]
    (fun t => t.BX == 0x0000#16 && t.flags.CF && t.flags.ZF && !t.flags.OF) = true := by decide

/-- By hand from R206: 7FH + 80H + 1. -/
theorem test_adcAccImm : after { base with AX := 0x007F#16, flags := { Flags.clear with CF := true } } [0x14#8,
    0x80#8]
    (fun t => t.AX == 0x0000#16 && t.flags.CF && !t.flags.OF) = true := by decide

/-- By hand from R212: 0000H - 1. -/
theorem test_subRmImm : after base [0x83#8, 0xEB#8, 0x01#8]
    (fun t => t.BX == 0xFFFF#16 && t.flags.CF && t.flags.SF && !t.flags.OF) = true := by decide

/-- By hand from R213: 8000H - 1 overflows. -/
theorem test_subAccImm : after { base with AX := 0x8000#16 } [0x2D#8, 0x01#8, 0x00#8]
    (fun t => t.AX == 0x7FFF#16 && t.flags.OF && !t.flags.CF) = true := by decide

/-- By hand from R215: 00H - 00H - 1. -/
theorem test_sbbRmImm : after { base with flags := { Flags.clear with CF := true } } [0x80#8, 0xDB#8, 0x00#8]
    (fun t => t.BX == 0x00FF#16 && t.flags.CF && t.flags.AF) = true := by decide

/-- By hand from R216: 02H - 01H - 1. -/
theorem test_sbbAccImm : after { base with AX := 0x0002#16, flags := { Flags.clear with CF := true } } [0x1C#8,
    0x01#8]
    (fun t => t.AX == 0x0000#16 && t.flags.ZF && !t.flags.CF) = true := by decide

/-- The start state with ROM under the stack, so that what a divide error pushes (its status flags are free values)
is dropped and the pointer can be read. -/
def romStack : State :=
  { base with params := { Params.default with memMap := [{ base := 0x40000, size := 0x10000, kind := .rom }] } }

/-- I.1: division by zero goes to the type 0 pointer. -/
theorem test_divRm_zero : after
    { romStack with AX := 0x1234#16, flags := { Flags.clear with IF := true }
                    mem := [(0x00001, 0x05#8), (0x00003, 0x20#8)] } [0xF6#8, 0xF3#8]
    (fun t => t.CS == 0x2000#16 && t.IP == 0x0500#16 && t.SP == 0x00FA#16 && !t.flags.IF) = true := by decide

/-- N.75: the most negative quotient faults. -/
theorem test_idivRm_min : after { romStack with AX := 0x8000#16, BX := 0xFFFF#16, mem := [(0x00003, 0x20#8)] }
    [0xF7#8, 0xFB#8] (fun t => t.CS == 0x2000#16 && t.SP == 0x00FA#16) = true := by decide

/-- S.10, the first step: REPE CMPSB goes on while the elements are equal. -/
theorem test_repe_cmps : after { base with CX := 0x0005#16, mem := [(0x20000, 0x01#8), (0x30000, 0x01#8)] }
    [0xF3#8, 0xA6#8]
    (fun t => t.CX == 0x0004#16 && t.SI == 0x0001#16 && t.IP == 0x0102#16 && t.repeating == some (.cmps .byte))
      = true := by decide

/-- R301, S.10: F2H goes on while ZF is 0, so equal elements end it, and its prefix is spent. -/
theorem test_rep : after { base with CX := 0x0005#16 } [0xF2#8, 0xAE#8]
    (fun t => t.CX == 0x0004#16 && t.repeating == none && t.rep == none && t.flags.ZF) = true := by decide

/-- R82, M.3: LOCK is on the cycles of XCHG in maximum mode, and is over after it. -/
theorem test_lock : traced { shared .max with BX := 0x0010#16, lock := true }
    (.xchgRmReg .byte (.mem (.based .bx .none)) .axAl)
    (fun t => t.bus.map (fun c => (c.kind, c.lock)) == [(.memWrite, true), (.memRead, true)]) = true := by decide

theorem test_lock_over : after { shared .max with BX := 0x0010#16, AX := 0x0011#16 } [0xF0#8, 0x86#8, 0x07#8]
    (fun t => t.byteAt 0x20010#20 == 0x11#8 && !t.lock && t.IP == 0x0103#16) = true := by decide

/-- R412, R101: the last segment prefix wins. -/
theorem test_segment : after { base with mem := [(0x30000, 0x12#8)] } [0x2E#8, 0x26#8, 0xA0#8, 0x00#8, 0x00#8]
    (fun t => t.AX == 0x0012#16 && t.ovr == none && t.IP == 0x0105#16) = true := by decide

/-- The table of 2.8: with SF = OF = 1 and the rest 0, which of the sixteen jumps are taken. -/
theorem test_conditional_jumps :
    ([0x70#8, 0x71#8, 0x72#8, 0x73#8, 0x74#8, 0x75#8, 0x76#8, 0x77#8, 0x78#8, 0x79#8, 0x7A#8, 0x7B#8, 0x7C#8, 0x7D#8,
        0x7E#8, 0x7F#8].map fun op =>
      after { base with flags := { Flags.clear with SF := true, OF := true } } [op, 0x10#8]
        (fun t => t.IP == 0x0112#16))
      = [true, false, false, true, false, true, false, true, true, false, false, true, false, true, false, true] := by
  decide

/-- I.6. -/
theorem test_intN : after
    { base with
      flags := { Flags.clear with IF := true, DF := true }
      mem := [(0x003FC, 0x34#8), (0x003FD, 0x12#8), (0x003FF, 0xF0#8)] } [0xCD#8, 0xFF#8]
    (fun t => t.CS == 0xF000#16 && t.IP == 0x1234#16 && t.byteAt 0x400FF#20 == 0xF6#8 && t.flags.DF && !t.flags.IF)
      = true := by decide

/-- I.5. -/
theorem test_int3 : after { base with mem := [(0x0000D, 0x07#8), (0x0000F, 0x20#8)] } [0xCC#8]
    (fun t => t.CS == 0x2000#16 && t.IP == 0x0700#16 && t.byteAt 0x400FA#20 == 0x01#8) = true := by decide

/-- I.4. -/
theorem test_into : after
    { base with flags := { Flags.clear with OF := true }, mem := [(0x00011, 0x06#8), (0x00013, 0x20#8)] } [0xCE#8]
    (fun t => t.CS == 0x2000#16 && t.IP == 0x0600#16 && t.flags.OF) = true := by decide

/-- I.8. -/
theorem test_iret : after
    { base with
      mem := [(0x40101, 0x02#8), (0x40103, 0x30#8), (0x40104, 0xFF#8), (0x40105, 0xFF#8)] } [0xCF#8]
    (fun t => t.CS == 0x3000#16 && t.IP == 0x0200#16 && t.SP == 0x0106#16 && t.flags.image 0xF002#16 == 0xFFD7#16)
      = true := by decide

/-- K.1, K.2, K.3. -/
theorem test_clc : after { base with flags := { Flags.clear with CF := true } } [0xF8#8]
    (fun t => !t.flags.CF) = true := by decide

theorem test_cmc : after base [0xF5#8] (fun t => t.flags.CF) = true := by decide

theorem test_stc : after base [0xF9#8] (fun t => t.flags.CF) = true := by decide

/-- K.4, K.5. -/
theorem test_cld : after { base with flags := { Flags.clear with DF := true } } [0xFC#8]
    (fun t => !t.flags.DF) = true := by decide

theorem test_std : after base [0xFD#8] (fun t => t.flags.DF) = true := by decide

/-- K.6, K.7, I.12: STI that finds IF = 0 sets the shadow. -/
theorem test_sti : after base [0xFB#8] (fun t => t.flags.IF && t.stiShadow) = true := by decide

theorem test_cli : after { base with flags := { Flags.clear with IF := true } } [0xFA#8]
    (fun t => !t.flags.IF) = true := by decide

/-- K.9. -/
theorem test_hlt : after base [0xF4#8] (fun t => t.halted && t.IP == 0x0101#16) = true := by decide

/-- K.10 and I.21: TEST low, TEST high. -/
theorem test_wait_low : stepped { base.place [0x9B#8] with env := [quiet] }
    (fun t => t.IP == 0x0101#16 && !t.waiting) = true := by decide

theorem test_wait_high : stepped { base.place [0x9B#8] with env := [{ quiet with testLow := false }] }
    (fun t => t.IP == 0x0100#16 && t.waiting) = true := by decide

/-- R409: a waiting chip examines TEST again without fetching the WAIT byte. -/
theorem test_wait_again : stepped { base with waiting := true, env := [quiet] }
    (fun t => t.IP == 0x0101#16 && !t.waiting) = true := by decide

/-- A.12, A.13: ESC reads its memory operand and drops it. -/
theorem test_esc :
    traced { base with mem := [(0x21000, 0xAA#8), (0x21001, 0xBB#8)] } (.esc .b111 .b111 (.mem (.direct 0x1000#16)))
    (fun t => t.bus.map shown
      == [(.memRead, some 0x21001#20, some 0xBB#8), (.memRead, some 0x21000#20, some 0xAA#8)]) = true := by decide

/-- I.24, X1.1: after RESET the first instruction byte comes from FFFF0H. -/
theorem test_reset_fetch : stepped { State.reset with mem := [(0xFFFF0, 0xEA#8), (0xFFFF2, 0x01#8), (0xFFFF4,
    0x10#8)] }
    (fun t => t.CS == 0x1000#16 && t.IP == 0x0100#16) = true := by decide

/-- R502: the first instruction after RESET runs whatever is pending. -/
theorem test_reset_first : stepped
    { State.reset with mem := [(0xFFFF0, 0x40#8)], nmiLatch := true, env := [quiet] }
    (fun t => t.AX == 0x0001#16 && t.nmiLatch && t.IP == 0x0001#16) = true := by decide

/-- R502, log 14: the first instruction after RESET executes even where it is a repetition and an NMI is pending: its
first iteration runs, and the NMI comes at the point before the second, with the IP of the prefix saved (R302, R448). -/
theorem test_reset_first_repeat :
    (match step
        { State.reset with
          mem := [(0x00010, 0x77#8), (0xFFFF0, 0xF3#8), (0xFFFF1, 0xA4#8)]
          SI := 0x0010#16, DI := 0x0020#16, CX := 0x0003#16, SP := 0x0100#16, nmiLatch := true, env := [quiet] } with
      | .next t =>
        t.CX == 0x0002#16 && t.byteAt 0x00020#20 == 0x77#8 && t.nmiLatch && t.SP == 0x0100#16
          && stepped t (fun u => u.CX == 0x0002#16 && u.SP == 0x00FA#16 && !u.nmiLatch
            && u.byteAt 0x000FA#20 == 0x00#8 && u.byteAt 0x000FB#20 == 0x00#8)
      | _ => false) = true := by decide

/-- I.23: an interrupt frame that wraps in the stack segment. -/
theorem test_interrupt_wraps : after { base with SP := 0x0002#16 } [0xCD#8, 0x21#8]
    (fun t => t.SP == 0xFFFC#16 && t.byteAt 0x40001#20 == 0xF0#8 && t.byteAt 0x4FFFF#20 == 0x10#8
      && t.byteAt 0x4FFFC#20 == 0x02#8) = true := by decide

/-- I.9: an NMI is taken with IF = 0. -/
theorem test_nmi : stepped { base.place [0x40#8] with env := [{ quiet with nmi := true }] }
    (fun t => t.SP == 0x00FA#16 && !t.nmiLatch && t.byteAt 0x400FA#20 == 0x00#8 && t.byteAt 0x400FB#20 == 0x01#8)
      = true := by decide

/-- I.10: the type comes from the second acknowledge cycle; with IF = 0 the instruction runs. -/
theorem test_intr : stepped
    { { base with flags := { Flags.clear with IF := true }, mem := [(0x00081, 0x09#8)] }.place [0x40#8] with
      env := [{ quiet with intr := true }] }
    (fun t => t.IP == 0x0900#16 && !t.flags.IF && t.byteAt 0x400FF#20 == 0xF2#8) = true := by decide

theorem test_intr_masked : stepped { base.place [0x40#8] with env := [{ quiet with intr := true }] }
    (fun t => t.AX == 0x0001#16 && t.IP == 0x0101#16) = true := by decide

/-- I.18: the IP saved inside a repetition is that of the byte before the string opcode. -/
theorem test_interrupted_repeat : stepped
    { base with
      IP := 0x0102#16, CX := 0x0003#16, flags := { Flags.clear with IF := true }, rep := some true
      repeating := some (.movs .byte), mem := [(0x00081, 0x09#8)], env := [{ quiet with intr := true }] }
    (fun t => t.IP == 0x0900#16 && t.byteAt 0x400FA#20 == 0x00#8 && t.CX == 0x0003#16 && t.rep == none) = true := by
  decide

/-- INTR high, with type 20H. -/
def asked : InterruptPins := { nmi := false, intr := true, intaType := 0x20#8 }

/-- R301, R302, R446: an INTR that comes during the prefixes of REP MOVSB with an override (2E F3 A4) is taken before
the first iteration, with the IP of the last prefix saved, the others spent and, with TF = 1, no trap due. -/
theorem test_interrupted_first : afterWith
    { base with CX := 0x0003#16, flags := { Flags.clear with IF := true, TF := true }, mem := [(0x00081, 0x09#8)] }
    [0x2E#8, 0xF3#8, 0xA4#8] { quiet with inside := asked }
    (fun t => t.IP == 0x0900#16 && t.byteAt 0x400FA#20 == 0x01#8 && t.CX == 0x0003#16 && !t.trapDue && t.ovr == none
      && t.rep == none) = true := by decide

/-- R302, R438: an NMI edge during the prefixes goes before an INTR; with CX = 0 there is no such point (R301). -/
theorem test_nmi_first :
    ([0x0003#16, 0x0000#16].map fun n =>
      afterWith { base with CX := n, flags := { Flags.clear with IF := true }, mem := [(0x00009, 0x07#8)] }
        [0xF3#8, 0xA4#8] { quiet with inside := { asked with nmi := true } }
        (fun t => t.CX == n && !t.nmiLatch && t.IP == if n == 0x0000#16 then 0x0102#16 else 0x0700#16))
      = [true, true] := by decide

/-- R406, R437 c, log 27: right after STI, INTR waits for the first iteration of a repetition, and is taken before the
second with the prefix's IP saved. -/
theorem test_sti_repeat :
    (match step
        { { base with CX := 0x0003#16, flags := { Flags.clear with IF := true } }.place [0xF3#8, 0xA4#8] with
          stiShadow := true, env := [{ quiet with intr := true, inside := asked }, { quiet with intr := true }] } with
      | .next t =>
        t.CX == 0x0002#16 && !t.stiShadow && t.flags.IF
          && stepped t (fun u => u.CX == 0x0002#16 && !u.flags.IF && u.byteAt 0x400FA#20 == 0x00#8)
      | _ => false) = true := by decide

/-- R408: a halted chip wakes on NMI with READY low, and runs no cycle before. -/
theorem test_halted_nmi : stepped { base with halted := true, env := [{ slow with nmi := true }] }
    (fun t => t.SP == 0x00FA#16 && !t.halted) = true := by decide

/-! ## The bus -/

/-- M.3: another master writes between the read and the write of an unlocked exchange; with LOCK in maximum mode the
request is recorded and honored by the next step. -/
theorem test_exchange_split : afterWith
    { shared .min with BX := 0x0010#16, AX := 0x0011#16, mem := [(0x20010, 0x22#8)] }
    [0x86#8, 0x07#8] { slow with gaps := [[], [], [], [ask 0x20010#20 0x33#8, ask 0x20011#20 0x44#8]] }
    (fun t => t.AX == 0x0022#16 && t.byteAt 0x20010#20 == 0x11#8 && t.byteAt 0x20011#20 == 0x44#8) = true := by decide

theorem test_exchange_locked :
    (match step
        { { shared .max with BX := 0x0010#16, AX := 0x0011#16, mem := [(0x20010, 0x22#8)] }.place
            [0xF0#8, 0x86#8, 0x07#8] with
          env := [{ quiet with gaps := [[], [], [], [], [ask 0x20010#20 0x33#8]] }, quiet] } with
      | .next t =>
        t.byteAt 0x20010#20 == 0x11#8 && t.requests.length == 1
          && stepped t (fun u => u.byteAt 0x20010#20 == 0x33#8 && u.busGranted && u.requests.isEmpty)
      | _ => false) = true := by decide

/-- R83: HOLD comes between the bytes of a word in minimum mode, nothing does in maximum mode. -/
theorem test_word_split :
    ([BusMode.min, .max].map fun m =>
      afterWith { shared m with mem := [(0x20000, 0x11#8), (0x20001, 0x22#8)] } [0xA1#8, 0x00#8, 0x00#8]
        { slow with gaps := [[], [], [], [], [ask 0x20001#20 0x55#8]] } (fun t => t.AX == 0x5511#16))
      = [true, false] := by decide

/-- R476: RQ/GT0 goes before RQ/GT1, which stays recorded. -/
theorem test_request_order : stepped
    { shared .max with
      env := [{ quiet with requests := [{ pin := .second, writes := [] }, ask 0x20000#20 0x77#8] }] }
    (fun t => t.byteAt 0x20000#20 == 0x77#8 && t.busGranted && t.requests == [{ pin := .second, writes := [] }])
      = true := by decide

/-- A device at 20000H to 200FFH that answers A5H. -/
def withDevice : State :=
  { base with
    params := { Params.default with memMap := [{ base := 0x20000, size := 0x100, kind := .device }] }
    devIn := [0xA5#8], AX := 0x0099#16 }

/-- R79, R457: a device in memory answers a read, and a write to it is on the bus and nowhere else. -/
theorem test_device :
    (traced withDevice (.movAccMem .byte 0x0010#16) (fun t => t.AX == 0x00A5#16 && t.devIn.isEmpty)
      && traced withDevice (.movMemAcc .byte 0x0010#16) (fun t =>
        t.bus.map shown == [(.memWrite, some 0x20010#20, some 0x99#8)] && t.devIn == [0xA5#8]
          && t.byteAt 0x20010#20 == 0x00#8)) = true := by decide

/-- M.6: a byte the queue holds is executed though memory has changed; after a jump the new byte is. -/
theorem test_stale : stepped { base with queue := [0x40#8], mem := [(0x10100, 0x43#8)] }
    (fun t => t.AX == 0x0001#16 && t.BX == 0x0000#16) = true := by decide

theorem test_jump_empties :
    (match exec (.jmpShort 0#8) { base with queue := [0x40#8], mem := [(0x10100, 0x43#8)] } with
      | .next t => t.queue.isEmpty && stepped t (fun u => u.BX == 0x0001#16 && u.AX == 0x0000#16)
      | _ => false) = true := by decide

/-- R477: HLT fetched with READY low leaves its code cycle in progress, and until READY is high nothing happens, an
NMI included. -/
theorem test_stalled :
    (match step { base with mem := [(0x10100, 0xF4#8)], env := [slow, { slow with nmi := true }, quiet] } with
      | .next t =>
        t.halted && t.stalled && t.IP == 0x0101#16
          && (match step t with
            | .next u => u.IP == 0x0101#16 && u.stalled && stepped u (fun v => v.SP == 0x00FA#16 && !v.halted)
            | _ => false)
      | _ => false) = true := by decide

/-- R477: HLT from the queue with READY low runs no cycle but the halt status, which waits for nothing. -/
theorem test_stalled_halt : stepped { base with queue := [0xF4#8], env := [slow] }
    (fun t => t.halted && !t.stalled && t.bus.map shown == [(.halt, none, none)]) = true := by decide

/-! ## The hypotheses of the statements can be met -/

/-- A step that passes a check answers a next state with what the check says. -/
theorem exists_of_stepped {s : State} {p : State → Bool} (h : stepped s p = true) :
    ∃ t, step s = .next t ∧ p t = true := by
  unfold stepped at h
  split at h
  · exact ⟨_, ‹_›, h⟩
  · cases h

/-- Sampling when the environment says nothing and the chip has the bus. -/
theorem sampled_none {s : State} (hb : s.busGranted = false) (he : s.env = []) (hr : s.requests = []) :
    s.Sampled { s with pins := none, gaps := [], requests := s.recorded, stalled := false } :=
  ⟨_, .inl ⟨he, rfl⟩, .inl (by simp [State.recorded, hr]), by symm; exact State.reclaimBus_held hb⟩

/-- Sampling pins that hold nothing up while the chip has the bus: READY high, or no cycle that waits for it. -/
theorem sampled_some {s : State} {p : PinSample} {ps : List PinSample} (hb : s.busGranted = false)
    (he : s.env = p :: ps) (hr : p.reset = false) (hy : p.ready = true ∨ s.stalled = false)
    (hq : s.requests = []) (hp : p.requests = []) :
    s.Sampled
      { s with
        pins := some p
        env := ps
        nmiLatch := s.nmiLatch || s.edgeSeen p
        draws := s.draws + if s.fresh then 1 else 0
        gaps := p.gaps.map s.heard
        requests := s.recorded ++ s.heard p.requests
        stalled := false } :=
  ⟨_, .inr ⟨p, ps, he, hr, hy, rfl⟩, .inl (by simp [State.recorded, State.heard, hq, hp]),
    by symm; exact State.reclaimBus_held hb⟩

/-- INTR is not accepted with IF = 0. -/
theorem intr_masked {s : State} (hi : s.flags.IF = false) : ¬ s.IntrAccepted := by
  rintro ⟨p, -, -, h, -⟩
  rw [hi] at h
  cases h

/-- Nothing is pending where the latch and the trap are clear and IF is 0. -/
theorem nothing_pending {s : State} (hn : s.nmiLatch = false) (ht : s.trapDue = false) (hi : s.flags.IF = false) :
    s.NothingPending := .inr ⟨hn, ht, intr_masked hi⟩

/-- ROM everywhere in segment 5000H. -/
def withRom : State :=
  { base with params := { Params.default with memMap := [{ base := 0x50000, size := 0x10000, kind := .rom }] } }

theorem witness_DecodeOfEncode :
    (Instr.movRmReg .toReg .word (.mem (.based .bp (.d8 0#8))) .axAl).wf = true ∧ Instr.wf .aaa = true := by decide

theorem witness_EncodeOfDecode : decode [0x90#8, 0x40#8] = .ok (.xchgAccReg .ax, [0x40#8]) := rfl

/-- The edges of the unlisted ranges. -/
theorem witness_RefusesExactlyUnlisted :
    4 ≤ [0#8, 0#8, 0#8, 0#8].length ∧ UnlistedEncoding 0x60#8 0#8 ∧ UnlistedEncoding 0x6F#8 0#8
      ∧ ¬ UnlistedEncoding 0x5F#8 0#8 ∧ ¬ UnlistedEncoding 0x70#8 0#8 ∧ UnlistedEncoding 0x8D#8 0xC0#8
      ∧ ¬ UnlistedEncoding 0x8D#8 0xBF#8 ∧ ¬ UnlistedEncoding 0xD4#8 0x0A#8 ∧ UnlistedEncoding 0xD4#8 0x0B#8
      ∧ UnlistedEncoding 0xFF#8 0xD8#8 ∧ ¬ UnlistedEncoding 0xFF#8 0x98#8 := by
  simp [UnlistedEncoding, extension, registerMod]

/-- The state the statement's third variable stands for. -/
theorem beginInstr_eq (u : State) :
    u.beginInstr =
      { u with
        trapDue := u.flags.TF, fullShadow := u.fullShadow || u.fresh, afterSeq := false, fresh := false
        waiting := false } := rfl

/-- An instruction, a prefix with READY low, and bytes that do not decode; a full shadow over a pending NMI; a
repetition that a pending NMI finds as the first instruction after RESET. -/
theorem witness_StepRunsDecoded :
    (∃ (s u : State) (rest : List Byte), s.Sampled u ∧ u.Begins
        ∧ decode u.beginInstr.codeBytes = .ok (.incReg .ax, rest))
      ∧ (∃ (s u : State) (rest : List Byte), s.Sampled u ∧ u.Begins ∧ u.ready = false
        ∧ decode u.beginInstr.codeBytes = .ok (.segment .es, rest))
      ∧ (∃ (s u : State) (e : DecodeError), s.Sampled u ∧ u.Begins ∧ decode u.beginInstr.codeBytes = .error e)
      ∧ (∃ (s u : State) (rest : List Byte), s.Sampled u ∧ u.Begins ∧ u.fullShadow = true ∧ u.nmiLatch = true
        ∧ decode u.beginInstr.codeBytes = .ok (.incReg .ax, rest))
      ∧ ∃ (s u : State) (rest : List Byte), s.Sampled u ∧ u.Begins ∧ u.fresh = true ∧ u.nmiLatch = true
        ∧ u.CX ≠ 0#16 ∧ decode u.beginInstr.codeBytes = .ok (.rep true, 0xA4#8 :: rest) :=
  ⟨⟨base.place [0x40#8], _, List.replicate 5 0#8, sampled_none rfl rfl rfl,
      ⟨rfl, rfl, rfl, ⟨rfl, rfl, rfl⟩, .inr (nothing_pending rfl rfl rfl)⟩, rfl⟩,
    ⟨{ base.place [0x26#8] with env := [slow] }, _, List.replicate 5 0#8, sampled_some rfl rfl rfl (.inr rfl) rfl rfl,
      ⟨rfl, rfl, rfl, ⟨rfl, rfl, rfl⟩, .inr (nothing_pending rfl rfl rfl)⟩, rfl, rfl⟩,
    ⟨base.place [0x60#8], _, .unlistedOpcode 0x60#8, sampled_none rfl rfl rfl,
      ⟨rfl, rfl, rfl, ⟨rfl, rfl, rfl⟩, .inr (nothing_pending rfl rfl rfl)⟩, rfl⟩,
    ⟨{ base.place [0x40#8] with env := [{ quiet with nmi := true }], fullShadow := true }, _, List.replicate 5 0#8,
      sampled_some rfl rfl rfl (.inl rfl) rfl rfl, ⟨rfl, rfl, rfl, ⟨rfl, rfl, rfl⟩, .inl rfl⟩, rfl, rfl, rfl⟩,
    ⟨{ base.place [0xF3#8, 0xA4#8] with fresh := true, nmiLatch := true, CX := 3#16 }, _, List.replicate 4 0#8,
      sampled_none rfl rfl rfl, ⟨rfl, rfl, rfl, ⟨rfl, rfl, rfl⟩, .inr (.inl rfl)⟩, rfl, rfl, by decide, rfl⟩⟩

/-- A prefix found in force; then a further prefix, bytes that do not decode, a repeat prefix before an addition. -/
theorem witness_PrefixedInstructionRuns_prefixes :
    (∃ s u : State, s.Sampled u ∧ u.repeating = none ∧ ¬ u.noPrefix)
      ∧ (∃ (s : State) (rest : List Byte), s.repeating = none ∧ decode s.codeBytes = .ok (.lock, rest)
        ∧ isPrefixInstr .lock = true)
      ∧ (∃ (s : State) (e : DecodeError), s.repeating = none ∧ decode s.codeBytes = .error e)
      ∧ ∃ (s : State) (rest : List Byte), s.repeating = none ∧ decode s.codeBytes = .ok (.incReg .ax, rest)
        ∧ isPrefixInstr (.incReg .ax) = false ∧ s.rep.isSome = true ∧ isStringInstr (.incReg .ax) = false :=
  ⟨⟨{ base.place [0xF0#8] with ovr := some .es }, _, sampled_none rfl rfl rfl, rfl, nofun⟩,
    ⟨base.place [0xF0#8], List.replicate 5 0#8, rfl, rfl, rfl⟩,
    ⟨base.place [0x60#8], .unlistedOpcode 0x60#8, rfl, rfl⟩,
    ⟨{ base.place [0x40#8] with rep := some true }, List.replicate 5 0#8, rfl, rfl, rfl, rfl, rfl⟩⟩

theorem no_nmi_inside {s : State} {p : PinSample} (hp : s.pins = some p) (hn : s.nmiLatch = false)
    (h : p.inside.nmi = false) : ¬ s.NmiInside := by
  simp [State.NmiInside, hp, hn, h]

/-- Nothing comes at the point inside a step whose sample says so there, whatever the pins showed before. -/
theorem quiet_inside {s : State} {b : Bool} (hp : s.pins = some { quiet with intr := b }) (hn : s.nmiLatch = false) :
    ¬ s.NmiInside ∧ ¬ s.IntrInside :=
  ⟨no_nmi_inside hp hn rfl, by simp [State.IntrInside, hp, quiet]⟩

/-- The string primitive after its prefix: a repetition of 0 elements, one of 5 with INTR high only when the step began,
one under a full shadow with an NMI pending, one that an NMI latched before goes before, one that an NMI edge at that
point does, and one that an INTR does. -/
theorem witness_PrefixedInstructionRuns_strings :
    (∃ (s : State) (rest : List Byte), s.repeating = none ∧ decode s.codeBytes = .ok (.movs .byte, rest)
        ∧ s.rep.isSome = true ∧ s.CX = 0#16)
      ∧ (∃ (s : State) (rest : List Byte), s.repeating = none ∧ decode s.codeBytes = .ok (.movs .byte, rest)
        ∧ s.rep.isSome = true ∧ s.CX = 5#16 ∧ ¬ s.NmiInside ∧ ¬ s.IntrInside)
      ∧ (∃ (s : State) (rest : List Byte), s.repeating = none ∧ decode s.codeBytes = .ok (.movs .byte, rest)
        ∧ s.rep.isSome = true ∧ s.CX ≠ 0#16 ∧ s.fullShadow = true ∧ s.nmiLatch = true)
      ∧ (∃ (s : State) (rest : List Byte), s.repeating = none ∧ decode s.codeBytes = .ok (.movs .byte, rest)
        ∧ isStringInstr (.movs .byte) = true ∧ s.rep.isSome = true ∧ s.CX ≠ 0#16 ∧ s.fullShadow = false
        ∧ s.nmiLatch = true ∧ s.NmiInside)
      ∧ (∃ (s : State) (rest : List Byte), s.repeating = none ∧ decode s.codeBytes = .ok (.movs .byte, rest)
        ∧ s.rep.isSome = true ∧ s.CX ≠ 0#16 ∧ s.fullShadow = false ∧ s.nmiLatch = false ∧ s.NmiInside)
      ∧ ∃ (s : State) (rest : List Byte), s.repeating = none ∧ decode s.codeBytes = .ok (.movs .byte, rest)
        ∧ s.rep.isSome = true ∧ s.CX ≠ 0#16 ∧ s.fullShadow = false ∧ ¬ s.NmiInside ∧ s.IntrInside :=
  ⟨⟨{ base.place [0xA4#8] with rep := some true }, List.replicate 5 0#8, rfl, rfl, rfl, rfl⟩,
    ⟨{ base.place [0xA4#8] with
        rep := some true, CX := 5#16, flags := { Flags.clear with IF := true }
        pins := some { quiet with intr := true } }, List.replicate 5 0#8, rfl, rfl, rfl, rfl, quiet_inside rfl rfl⟩,
    ⟨{ base.place [0xA4#8] with rep := some true, CX := 5#16, fullShadow := true, nmiLatch := true },
      List.replicate 5 0#8, rfl, rfl, rfl, by decide, rfl, rfl⟩,
    ⟨{ base.place [0xA4#8] with rep := some true, CX := 1#16, nmiLatch := true }, List.replicate 5 0#8, rfl, rfl, rfl,
      rfl, by decide, rfl, rfl, .inl rfl⟩,
    ⟨{ base.place [0xA4#8] with
        rep := some true, CX := 1#16, pins := some { quiet with inside := { asked with nmi := true } } },
      List.replicate 5 0#8, rfl, rfl, rfl, by decide, rfl, rfl, .inr ⟨_, rfl, rfl⟩⟩,
    ⟨{ base.place [0xA4#8] with
        rep := some true, CX := 1#16, flags := { Flags.clear with IF := true }
        pins := some { quiet with inside := asked } }, List.replicate 5 0#8, rfl, rfl, rfl, by decide, rfl,
      no_nmi_inside rfl rfl rfl, ⟨_, rfl, rfl, rfl, rfl⟩⟩⟩

/-- Where the vectors start, and right after RESET. -/
theorem witness_StepRunsPlaced :
    (Instr.wf (.incReg .ax) = true ∧ isPrefixInstr (.incReg .ax) = false
        ∧ (encode (.incReg .ax) ++ List.replicate 5 0#8).length = 6 ∧ ∀ k < 6, base.Remembers (base.codeAddr k))
      ∧ State.reset.fresh = true ∧ ∀ k < 6, State.reset.Remembers (State.reset.codeAddr k) := by
  unfold State.Remembers
  decide

/-- The start state of the vectors satisfies the invariant. -/
theorem base_inv : base.Inv where
  mem := by decide
  repetition _ h := absurd (a := base.repeating = some _) h (by simp [base, State.reset])
  halt h := absurd (a := base.halted = true) h (by decide)
  wait h := absurd (a := base.waiting = true) h (by decide)
  sequence h := absurd (a := base.afterSeq = true) h (by decide)
  shadow h := absurd (a := base.fullShadow = true) h (by decide)
  fresh h := absurd (a := base.fresh = true) h (by decide)
  queue := by decide
  stalled h := absurd (a := base.stalled = true) h (by decide)

theorem base_steps : stepped base (fun t => t.IP != 0x0100#16) = true := by decide

theorem witness_StepKeepsInv : base.Inv ∧ ∃ t, step base = .next t ∧ (t.IP != 0x0100#16) = true :=
  ⟨base_inv, exists_of_stepped base_steps⟩

theorem withRom_steps : stepped withRom (fun t => t.IP != 0x0100#16) = true := by decide

theorem witness_StepKeepsParamsAndRom :
    (∃ t, step withRom = .next t ∧ (t.IP != 0x0100#16) = true)
      ∧ kindAt withRom.params.memMap 0x50000#20 ≠ .ram ∧ kindAt withRom.params.memMap 0x5FFFF#20 ≠ .ram
      ∧ kindAt withRom.params.memMap 0x60000#20 = .ram :=
  ⟨exists_of_stepped withRom_steps, by decide⟩

/-- A chip that is halted, waits for READY and has a request recorded. -/
theorem witness_ResetPinRestarts :
    ∃ (s : State) (p : PinSample) (ps : List PinSample), s.env = p :: ps ∧ p.reset = true ∧ p.ready = false
      ∧ s.halted = true ∧ s.stalled = true ∧ s.requests ≠ [] :=
  ⟨{ base with
      env := [{ slow with reset := true }], halted := true, stalled := true
      requests := [{ pin := .second, writes := [] }] }, _, [], rfl, rfl, rfl, rfl, rfl, by decide⟩

/-- Each clause has an instruction that does change the thing. -/
theorem witness_OnlyTheseChangeControl :
    (∃ t, exec .std base = .next t ∧ t.flags.DF ≠ base.flags.DF)
      ∧ (∃ t, exec .popf { base with flags := { Flags.clear with TF := true } } = .next t ∧ t.flags.TF ≠ true)
      ∧ (∃ t, exec .sti base = .next t ∧ t.flags.IF ≠ base.flags.IF)
      ∧ (∃ t, exec (.jmpFar 0#16 0xFFFF#16) base = .next t ∧ t.CS ≠ base.CS)
      ∧ (∃ t, exec (.movSregRm .ss (.reg .axAl)) base = .next t ∧ t.SS ≠ base.SS)
      ∧ (∃ t, exec (.movSregRm .ds (.reg .axAl)) base = .next t ∧ t.DS ≠ base.DS)
      ∧ (∃ t, exec (.les .si (.direct 0#16)) base = .next t ∧ t.ES ≠ base.ES)
      ∧ ∃ t, exec .hlt base = .next t ∧ t.halted ≠ base.halted :=
  ⟨⟨_, rfl, by decide⟩, ⟨_, rfl, by decide⟩, ⟨_, rfl, by decide⟩, ⟨_, rfl, by decide⟩, ⟨_, rfl, by decide⟩,
    ⟨_, rfl, by decide⟩, ⟨_, rfl, by decide⟩, ⟨_, rfl, by decide⟩⟩

/-- A displacement of each kind, and no override and one. -/
theorem witness_AddressForms :
    ((Disp.none = .none → (0#16 : Word) = 0x0000#16) ∧ (∀ b, Disp.none = .d8 b → (0#16 : Word) = b.signExtend 16)
        ∧ ∀ w, Disp.none = .d16 w → (0#16 : Word) = w)
      ∧ ((Disp.d8 0x80#8 = .none → (0xFF80#16 : Word) = 0x0000#16)
        ∧ (∀ b, Disp.d8 0x80#8 = .d8 b → (0xFF80#16 : Word) = b.signExtend 16)
        ∧ ∀ w, Disp.d8 0x80#8 = .d16 w → (0xFF80#16 : Word) = w)
      ∧ base.ovr = none ∧ { base with ovr := some .es }.ovr = some .es := by
  refine ⟨⟨fun _ => rfl, nofun, nofun⟩, ⟨nofun, ?_, nofun⟩, rfl, rfl⟩
  rintro b ⟨⟩
  decide

theorem witness_CompareThenJump : ∃ a b : BitVec Width.byte.bits, a = base.reg .byte .spAh
    ∧ b = base.reg .byte .axAl :=
  ⟨_, _, rfl, rfl⟩

/-- The edges of what is claimed for the adjustments: AL = F9H and 06H for AAA and AAS, 99H and A0H for DAA and
DAS. -/
theorem witness_DecimalAdjustResults :
    (∃ (s : State) (al ah : Nat) (lo hi : Bool), al = (s.reg8 .al).toNat ∧ ah = (s.reg8 .ah).toNat
        ∧ lo = (decide (9 < al % 16) || s.flags.AF) ∧ hi = (decide (0x99 < al) || s.flags.CF) ∧ al = 0xF9 ∧ al < 0xFA)
      ∧ (∃ (s : State) (al : Nat), al = (s.reg8 .al).toNat ∧ al = 6 ∧ s.flags.AF = true)
      ∧ (∃ (s : State) (al : Nat), al = (s.reg8 .al).toNat ∧ al = 0x99 ∧ s.flags.AF = true ∧ al < 0x9A)
      ∧ ∃ (s : State) (al : Nat), al = (s.reg8 .al).toNat ∧ al = 0xA0 ∧ 0x9F < al :=
  ⟨⟨{ base with AX := 0x00F9#16 }, _, _, _, _, rfl, rfl, rfl, rfl, by decide, by decide⟩,
    ⟨{ base with AX := 0x0006#16, flags := { Flags.clear with AF := true } }, _, rfl, by decide, rfl⟩,
    ⟨{ base with AX := 0x0099#16, flags := { Flags.clear with AF := true } }, _, rfl, by decide, rfl, by decide⟩,
    ⟨{ base with AX := 0x00A0#16 }, _, rfl, by decide, by decide⟩⟩

/-- The smallest and the largest packed numbers. -/
theorem witness_PackedDecimalArithmetic :
    (∃ (s : State) (b : Byte), (s.reg8 .al).toNat = 99 / 10 * 16 + 99 % 10 ∧ b.toNat = 99 / 10 * 16 + 99 % 10)
      ∧ ∃ (s : State) (b : Byte), (s.reg8 .al).toNat = 0 / 10 * 16 + 0 % 10 ∧ b.toNat = 0 / 10 * 16 + 0 % 10 :=
  ⟨⟨{ base with AX := 0x0099#16 }, 0x99#8, by decide, by decide⟩, ⟨base, 0#8, by decide, by decide⟩⟩

theorem witness_SignedDivision :
    (0 : Int) = (if base.params.idivMinFaults then 0 else 1)
      ∧ (1 : Int) = (if { Params.default with idivMinFaults := false }.idivMinFaults then 0 else 1) := by decide

/-- Counts of 1 and of 255. -/
theorem witness_ShiftResults :
    (∃ c : Nat, c = (match Count.one with | .one => 1 | .cl => (base.reg8 .cl).toNat) ∧ c = 1 ∧ c ≠ 0)
      ∧ ∃ (s : State) (c : Nat), c = (match Count.cl with | .one => 1 | .cl => (s.reg8 .cl).toNat) ∧ c = 255 ∧ c ≠ 0 :=
  ⟨⟨_, rfl, rfl, by decide⟩, ⟨{ base with CX := 0x00FF#16 }, _, rfl, by decide, by decide⟩⟩

/-- Counts of 1 and of 9, a byte's whole turn through CF. -/
theorem witness_RotateResults :
    (∃ c : Nat, c = (match Count.one with | .one => 1 | .cl => (base.reg8 .cl).toNat) ∧ c = 1 ∧ c ≠ 0)
      ∧ ∃ (s : State) (c : Nat), c = (match Count.cl with | .one => 1 | .cl => (s.reg8 .cl).toNat) ∧ c = 9 ∧ c ≠ 0 :=
  ⟨⟨_, rfl, rfl, by decide⟩, ⟨{ base with CX := 0x0009#16 }, _, rfl, by decide, by decide⟩⟩

theorem witness_ShiftByZero : { base with CX := 0xFF00#16 }.reg8 .cl = 0#8 := by decide

theorem witness_StringPrimitiveOnce : isStringInstr (.cmps .word) = true ∧ base.rep = none := by decide

/-- A repetition of nothing, of the last element, and of 65535 elements. -/
theorem witness_RepeatedIteration :
    isStringInstr (.scas .byte) = true ∧ { base with rep := some false }.rep = some false
      ∧ { base with rep := some false }.CX = 0#16 ∧ { base with rep := some false, CX := 1#16 }.CX ≠ 0#16
      ∧ { base with rep := some false, CX := 0xFFFF#16 }.CX ≠ 0#16 := by decide

theorem witness_RepeatRunsCxTimes :
    Instr.movs .word = .movs .word ∧ { base with rep := some true, CX := 3#16 }.rep = some true
      ∧ { base with rep := some true, CX := 3#16 }.CX ≠ 0#16 := by decide

/-- Every condition of the table is met and missed by some flags. -/
theorem witness_ConditionalJumpResults :
    (Instr.jle 0#8, Flags.clear.ZF = true ∨ Flags.clear.SF ≠ Flags.clear.OF) ∈ jumpTable 0#8 Flags.clear
      ∧ ¬ (Flags.clear.ZF = true ∨ Flags.clear.SF ≠ Flags.clear.OF)
      ∧ (Instr.jnle 0#8, Flags.clear.ZF = false ∧ Flags.clear.SF = Flags.clear.OF) ∈ jumpTable 0#8 Flags.clear
      ∧ (Flags.clear.ZF = false ∧ Flags.clear.SF = Flags.clear.OF) :=
  ⟨by simp [jumpTable], by decide, by simp [jumpTable], by decide⟩

/-- CX = 1 ends a loop, CX = 0 wraps. -/
theorem witness_LoopResults :
    ∃ s t u : State, t = { s with CX := s.CX - 1#16 }
        ∧ u = { t with IP := s.IP + (0xFE#8).signExtend 16, queue := [] }
      ∧ s.CX = 1#16 ∧ t.CX = 0#16 :=
  ⟨{ base with CX := 1#16 }, _, _, rfl, rfl, rfl, rfl⟩

theorem witness_SoftwareInterruptResults :
    { Flags.clear with OF := true }.OF = true ∧ base.flags.OF = false
      ∧ pushedByte base.SS base.SP [0#16, 0#16, 0#16] (vectorAddr 0xFF#8 3) = none := by decide

/-- The pointers of types 0 and 255 are apart from the stack of the vectors; that of type 21H is not from the stack of
vector I.25. -/
theorem witness_PointerApart :
    PointerApart base 0x00#8 ∧ PointerApart base 0xFF#8
      ∧ ¬ PointerApart { base with SS := 0x0000#16, SP := 0x0088#16 } 0x21#8 := by
  unfold PointerApart
  decide

/-- A stack in the middle of a segment and one that wraps, with no other master and with one that asks for nothing. -/
theorem witness_StackRoundTrips :
    base.Undisturbed ∧ (shared .min).Undisturbed
      ∧ (∀ k < 6, kindAt base.params.memMap (phys base.SS (base.SP - BitVec.ofNat 16 (k + 1))) = .ram)
      ∧ ∀ k < 6, kindAt base.params.memMap (phys base.SS (0x0001#16 - BitVec.ofNat 16 (k + 1))) = .ram :=
  ⟨.inl rfl, .inr ⟨rfl, rfl⟩, by decide, by decide⟩

theorem witness_FlagInstructionResults :
    base.flags.IF = false ∧ { base with flags := { Flags.clear with IF := true } }.flags.IF = true := by decide

theorem witness_ProcessorControlResults : { base with pins := some quiet }.pins = some quiet := rfl

/-- An edge and none, before the first instruction after RESET, after it, and with READY low. -/
theorem witness_NmiTaken_latched :
    (∃ (s : State) (p : PinSample), s.fresh = false ∧ p.nmi = true)
      ∧ (∃ (s : State) (p : PinSample), s.fresh = true ∧ p.nmi = false)
      ∧ (∃ s u : State, s.Sampled u ∧ s.env = [] ∧ s.nmiLatch = true)
      ∧ (∃ (s u : State) (p : PinSample), s.Sampled u ∧ s.env = [p] ∧ s.fresh = false ∧ s.nmiLatch = false
        ∧ p.nmi = true ∧ p.ready = false)
      ∧ ∃ (s u : State) (p : PinSample), s.Sampled u ∧ s.env = [p] ∧ s.fresh = true ∧ p.nmi = false :=
  ⟨⟨base, { quiet with nmi := true }, rfl, rfl⟩, ⟨State.reset, quiet, rfl, rfl⟩,
    ⟨{ base with nmiLatch := true }, _, sampled_none rfl rfl rfl, rfl, rfl⟩,
    ⟨{ base with env := [{ slow with nmi := true }] }, _, _, sampled_some rfl rfl rfl (.inr rfl) rfl rfl, rfl, rfl, rfl,
      rfl, rfl⟩,
    ⟨{ State.reset with env := [quiet] }, _, _, sampled_some rfl rfl rfl (.inl rfl) rfl rfl, rfl, rfl, rfl⟩⟩

/-- Between two instructions, and inside a repetition. -/
theorem witness_NmiTaken :
    (∃ s u : State, s.Sampled u ∧ (u.noPrefix ∨ u.repeating ≠ none) ∧ u.fullShadow = false ∧ u.fresh = false
        ∧ (u.afterSeq = false ∨ u.trapDue = false) ∧ u.nmiLatch = true ∧ u.repeating = none)
      ∧ ∃ s u : State, s.Sampled u ∧ (u.noPrefix ∨ u.repeating ≠ none) ∧ u.fullShadow = false ∧ u.fresh = false
        ∧ (u.afterSeq = false ∨ u.trapDue = false) ∧ u.nmiLatch = true ∧ u.repeating = some (.movs .byte) :=
  ⟨⟨{ base with env := [{ quiet with nmi := true }] }, _, sampled_some rfl rfl rfl (.inl rfl) rfl rfl,
      .inl ⟨rfl, rfl, rfl⟩, rfl, rfl, .inl rfl, rfl, rfl⟩,
    ⟨{ base with nmiLatch := true, rep := some true, repeating := some (.movs .byte), CX := 1#16 }, _,
      sampled_none rfl rfl rfl, .inr nofun, rfl, rfl, .inl rfl, rfl, rfl⟩⟩

theorem witness_IntrTaken :
    ∃ (s u : State) (p : PinSample), s.Sampled u ∧ (u.noPrefix ∨ u.repeating ≠ none) ∧ u.fullShadow = false
      ∧ u.fresh = false ∧ (u.afterSeq = false ∨ u.trapDue = false) ∧ u.nmiLatch = false ∧ u.pins = some p
      ∧ u.IntrAccepted :=
  ⟨{ base with env := [{ quiet with intr := true }], flags := { Flags.clear with IF := true } }, _,
    { quiet with intr := true }, sampled_some rfl rfl rfl (.inl rfl) rfl rfl, .inl ⟨rfl, rfl, rfl⟩, rfl, rfl, .inl rfl,
    rfl, rfl, ⟨_, rfl, rfl, rfl, rfl⟩⟩

/-- After an instruction, and right after an NMI was taken. -/
theorem witness_SingleStepTaken :
    (∃ s u : State, s.Sampled u ∧ (u.noPrefix ∨ u.repeating ≠ none) ∧ u.fullShadow = false ∧ u.fresh = false
        ∧ u.trapDue = true ∧ u.nmiLatch = false ∧ ¬ u.IntrAccepted)
      ∧ ∃ s u : State, s.Sampled u ∧ (u.noPrefix ∨ u.repeating ≠ none) ∧ u.fullShadow = false ∧ u.fresh = false
        ∧ u.trapDue = true ∧ u.afterSeq = true ∧ u.nmiLatch = true :=
  ⟨⟨{ base with trapDue := true }, _, sampled_none rfl rfl rfl, .inl ⟨rfl, rfl, rfl⟩, rfl, rfl, rfl, rfl,
      intr_masked rfl⟩,
    ⟨{ base with trapDue := true, afterSeq := true, nmiLatch := true }, _, sampled_none rfl rfl rfl,
      .inl ⟨rfl, rfl, rfl⟩, rfl, rfl, rfl, rfl, rfl⟩⟩

/-- A halted chip, with INTR high and IF = 0; a chip that waits on TEST; a repetition under way. -/
theorem witness_NothingRecognised :
    (∃ s u : State, s.Sampled u ∧ u.fullShadow = false ∧ u.NothingPending ∧ u.halted = true ∧ u.noPrefix)
      ∧ (∃ s u : State, s.Sampled u ∧ u.fullShadow = false ∧ u.NothingPending ∧ u.halted = false ∧ u.waiting = true
        ∧ u.repeating = none ∧ u.noPrefix)
      ∧ ∃ s u : State, s.Sampled u ∧ u.fullShadow = false ∧ u.NothingPending ∧ u.halted = false ∧ u.waiting = false
        ∧ u.repeating = some (.movs .byte) :=
  ⟨⟨{ base with halted := true, env := [{ quiet with intr := true }] }, _,
      sampled_some rfl rfl rfl (.inl rfl) rfl rfl, rfl, nothing_pending rfl rfl rfl, rfl, ⟨rfl, rfl, rfl⟩⟩,
    ⟨{ base with waiting := true, env := [{ quiet with testLow := false }] }, _,
      sampled_some rfl rfl rfl (.inl rfl) rfl rfl, rfl, nothing_pending rfl rfl rfl, rfl, rfl, rfl, ⟨rfl, rfl, rfl⟩⟩,
    ⟨{ base with rep := some true, repeating := some (.movs .byte), CX := 1#16 }, _, sampled_none rfl rfl rfl, rfl,
      nothing_pending rfl rfl rfl, rfl, rfl, rfl⟩⟩

/-- A bus that was given away is taken back by a step that samples no request. -/
theorem witness_Sampled_reclaims : ∃ s u : State, s.busGranted = true ∧ s.halted = true ∧ s.Sampled u :=
  ⟨{ base with busGranted := true, halted := true }, _, rfl, rfl, _, .inl ⟨rfl, rfl⟩, .inl rfl, rfl⟩

/-- LOCK is active: its prefix is in force, in maximum mode. -/
abbrev Locked (s : State) : Prop := s.lock = true ∧ s.params.mode = .max

/-- The state whose pins `p` a step of `s` samples, with no bus cycle waiting for READY. -/
def sampledBy (s : State) (p : PinSample) (ps : List PinSample) : State :=
  { s with
    pins := some p, env := ps, nmiLatch := s.nmiLatch || s.edgeSeen p
    draws := s.draws + (if s.fresh then 1 else 0)
    gaps := p.gaps.map fun l => l.filter fun q => q.pin == .first || s.params.mode == .max
    requests :=
      (if s.params.mode = .max then s.requests else [])
        ++ p.requests.filter fun q => q.pin == .first || s.params.mode == .max
    stalled := false }

theorem slow_steps :
    stepped { base.place [0x40#8] with env := [slow] } (fun t => t.IP == 0x0101#16) = true := by decide

/-- A stalled chip; requests by both pins, the second first, with READY low; a request recorded and a bus given away
while the chip is halted; a halted chip that takes the bus back; READY low under LOCK, and without. -/
theorem witness_BusHeld :
    (∃ (s : State) (p : PinSample) (ps : List PinSample), s.env = p :: ps ∧ p.reset = false ∧ s.stalled = true
        ∧ p.ready = false)
      ∧ (∃ (s u : State) (p : PinSample) (ps : List PinSample), s.env = p :: ps ∧ p.reset = false
        ∧ u = sampledBy s p ps ∧ s.stalled = false ∧ p.ready = false ∧ ¬ Locked s
        ∧ u.requests = [{ pin := .second, writes := [] }, ask 0x20000#20 0x77#8] ∧ s.params.otherMasters = true
        ∧ s.busGranted = false)
      ∧ (∃ (s u : State) (p : PinSample) (ps : List PinSample), s.env = p :: ps ∧ p.reset = false
        ∧ u = sampledBy s p ps ∧ s.stalled = false ∧ ¬ Locked s ∧ u.requests ≠ [] ∧ s.params.mode = .max
        ∧ s.busGranted = true ∧ s.halted = true)
      ∧ (∃ (s u : State) (p : PinSample) (ps : List PinSample), s.env = p :: ps ∧ p.reset = false
        ∧ u = sampledBy s p ps ∧ s.stalled = false ∧ ¬ Locked s ∧ u.requests = [] ∧ s.busGranted = true
        ∧ s.halted = true ∧ s.noPrefix ∧ s.fullShadow = false ∧ u.NothingPending)
      ∧ (∃ (s u : State) (p : PinSample) (ps : List PinSample), s.env = p :: ps ∧ p.reset = false
        ∧ u = sampledBy s p ps ∧ s.stalled = false ∧ p.ready = false ∧ Locked s ∧ u.requests ≠ [])
      ∧ ∃ (s u : State) (p : PinSample) (ps : List PinSample) (t : State), s.env = p :: ps ∧ p.reset = false
        ∧ u = sampledBy s p ps ∧ s.stalled = false ∧ p.ready = false ∧ u.requests = []
        ∧ step s = .next t ∧ t.IP = 0x0101#16 :=
  ⟨⟨{ base with stalled := true, env := [slow] }, slow, [], rfl, rfl, rfl, rfl⟩,
    ⟨{ shared .max with
        env := [{ slow with requests := [{ pin := .second, writes := [] }, ask 0x20000#20 0x77#8] }] },
      _, _, [], rfl, rfl, rfl, rfl, rfl, by decide, rfl, rfl, rfl⟩,
    ⟨{ shared .max with requests := [ask 0x20000#20 0x77#8], busGranted := true, halted := true, env := [quiet] },
      _, _, [], rfl, rfl, rfl, rfl, by decide, by decide, rfl, rfl, rfl⟩,
    ⟨{ base with busGranted := true, halted := true, env := [quiet] }, _, _, [], rfl, rfl, rfl, rfl, by decide,
      rfl, rfl, rfl, ⟨rfl, rfl, rfl⟩, rfl, nothing_pending rfl rfl rfl⟩,
    ⟨{ shared .max with lock := true, env := [{ slow with requests := [ask 0x20000#20 0x77#8] }] }, _, _, [], rfl, rfl,
      rfl, rfl, rfl, ⟨rfl, rfl⟩, by decide⟩,
    let ⟨t, ht, hip⟩ := exists_of_stepped slow_steps
    ⟨{ base.place [0x40#8] with env := [slow] }, _, _, [], t, rfl, rfl, rfl, rfl, rfl, rfl, ht, by simpa using hip⟩⟩

/-- Minimum mode, maximum mode, and maximum mode under LOCK; the other master at the very byte that is accessed
second, and at the byte after it. -/
theorem witness_MastersBetweenCycles :
    (∀ (m : BusMode) (a : PAddr), a = 0x20001#20 ∨ a = 0x20002#20 →
        ∃ (s : State) (r : BusRequest), s.params.otherMasters = true ∧ s.requests = [] ∧ r.writes = [(a, 0x55#8)]
          ∧ s.gaps = [[], [r]] ∧ kindAt s.params.memMap a = .ram ∧ kindAt s.params.memMap 0x20001#20 = .ram
          ∧ 0x20001#20 = phys (s.segValue (.direct 0x0001#16)) (s.ea (.direct 0x0001#16))
          ∧ 0x20001#20 = phys (s.segValue (.direct 0x0000#16)) (s.ea (.direct 0x0000#16) + 1#16)
          ∧ s.Remembers (phys (s.segValue (.direct 0x0000#16)) (s.ea (.direct 0x0000#16))) ∧ s.params.mode = m
          ∧ ¬ Locked s)
      ∧ (∃ (s : State) (r : BusRequest), s.params.otherMasters = true ∧ s.requests = []
        ∧ r.writes = [(0x20001#20, 0x55#8)] ∧ s.gaps = [[], [r]] ∧ Locked s)
      ∧ ∃ t, exec (.incReg .ax) base = .next t ∧ t.bus = base.bus := by
  have h1 : 0x20001#20 = phys 0x2000#16 0x0001#16 := by decide
  have h2 : 0x20001#20 = phys 0x2000#16 (0x0000#16 + 1#16) := by decide
  refine ⟨fun m a ha => ⟨{ shared m with gaps := [[], [ask a 0x55#8]] }, ask a 0x55#8, rfl, rfl, rfl, rfl, rfl, rfl,
      h1, h2, .inl rfl, rfl, nofun⟩,
    ⟨{ shared .max with lock := true, gaps := [[], [ask 0x20001#20 0x55#8]] }, ask 0x20001#20 0x55#8, rfl, rfl, rfl,
      rfl, ⟨rfl, rfl⟩⟩, ⟨_, rfl, rfl⟩⟩

/-- RAM, ROM, a device and nothing, one byte each side of a boundary. -/
def regions : List MemRegion :=
  [{ base := 0x20000, size := 1, kind := .rom }, { base := 0x20001, size := 1, kind := .device },
   { base := 0x20002, size := 1, kind := .absent }]

theorem witness_RegionAnswers :
    ∀ p ∈ [((0x0000#16 : Word), RegionKind.rom), (0x0001#16, .device), (0x0002#16, .absent), (0x0003#16, .ram)],
      ∃ (s : State) (pa : PAddr), s.Undisturbed ∧ (∀ off, kindAt s.params.memMap (phys s.CS off) ≠ .device)
        ∧ pa = phys (s.sreg s.dataSeg) p.1 ∧ kindAt s.params.memMap pa = p.2 := by
  intro p hp
  refine ⟨{ base with params := { Params.default with memMap := regions } }, _, .inl rfl, ?_, rfl, ?_⟩
  · intro off
    show kindAt regions (phys 0x1000#16 off) ≠ .device
    have h : (phys 0x1000#16 off).toNat < 0x20000 := by
      simp only [phys, BitVec.toNat_ofNat]
      omega
    have h1 : ¬ 0x20000 ≤ (phys 0x1000#16 off).toNat := by omega
    have h2 : ¬ 0x20001 ≤ (phys 0x1000#16 off).toNat := by omega
    have h3 : ¬ 0x20002 ≤ (phys 0x1000#16 off).toNat := by omega
    simp [regions, kindAt, h1, h2, h3]
  · simp only [List.mem_cons, List.not_mem_nil, or_false] at hp
    rcases hp with rfl | rfl | rfl | rfl <;> decide

/-- A queue with a byte, and an empty one where memory answers; a full queue; a halted chip; a jump and an addition. -/
theorem witness_FetchDelivers :
    (∃ (s : State) (b : Byte) (q : List Byte), s.queue = b :: q)
      ∧ (∃ s : State, s.queue = [] ∧ s.Undisturbed ∧ s.Remembers (phys s.CS s.IP))
      ∧ (∃ s : State, s.queue.length ≤ 4 ∧ s.queue.length + 1 > 4) ∧ (∃ s : State, s.halted = true)
      ∧ (∃ t, exec (.jmpShort 0#8) { base with queue := [0x40#8] } = .next t ∧ t.queue = [])
      ∧ ∃ t, exec (.incReg .ax) { base with queue := [0x40#8] } = .next t ∧ t.queue = [0x40#8] :=
  ⟨⟨{ base with queue := [0x40#8] }, _, _, rfl⟩, ⟨base, rfl, .inl rfl, .inl rfl⟩,
    ⟨{ base with queue := [0#8, 1#8, 2#8, 3#8] }, by decide, by decide⟩,
    ⟨{ base with halted := true }, rfl⟩, ⟨_, rfl, rfl⟩, ⟨_, rfl, rfl⟩⟩

end Sys2Proof.Tests
end

section
/-! PROOFS. One boundary and one instruction: what a step runs when nothing is recognised (O5, O6, O56). -/

namespace Sys2Proof.Machine

/-! ## The end of an instruction -/

/-- Every instruction has a next state: no arm faults or refuses (R78, R451). -/
theorem exec_completes (i : Instr) (s : State) : ∃ t, exec i s = .next t := by
  cases i <;> exact ⟨_, rfl⟩

/-- Prefixes are spent unless iterations are left (R63, R82, R101). -/
theorem State.retire_eq (s : State) : s.retire = if s.repeating = none then s.withoutPrefixes else s := by
  unfold State.retire State.withoutPrefixes
  cases s.repeating <;> simp

theorem State.withoutPrefixes_noPrefix {s : State} (h : s.noPrefix) : s.withoutPrefixes = s := by
  obtain ⟨ho, hr, hl⟩ := h
  unfold State.withoutPrefixes
  rw [← ho, ← hr, ← hl]

/-- An instruction runs with the shadow over, and then its prefixes are spent unless it has iterations left (R437). -/
theorem State.complete_eq {s t : State} {i : Instr} (h : exec i s.unshadowed = .next t) :
    s.complete i = .next (if t.repeating = none then t.withoutPrefixes else t) := by
  unfold State.unshadowed at h
  simp only [State.complete, h, State.retire_eq]

/-! ## Boundaries -/

/-- An instruction begins at a boundary where nothing is recognised, or that a full shadow covers (R437, R438). -/
theorem State.boundary_begins {s : State} (h : s.Begins) : s.boundary = s.beginInstr.runNext := by
  obtain ⟨hh, hw, hr, hp, hs⟩ := h
  unfold State.boundary
  rw [State.midInstruction_false (.inl hp)]
  rcases hs with hs | hs
  · simp [hs]
  · simp [State.recognised_none hs, hh, hw, hr]

/-- Inside a prefixed instruction there is no boundary (R437 b). -/
theorem State.boundary_prefixed {s : State} (hr : s.repeating = none) (hp : ¬ s.noPrefix) :
    s.boundary = s.runNext := by
  have hm : s.midInstruction = true := by
    refine Decidable.byContradiction fun h => hp ?_
    simpa [State.midInstruction, State.noPrefix, hr, and_assoc] using h
  simp [State.boundary, hm]

section
variable {s : State} (hm : s.midInstruction = false) (hs : s.fullShadow = false) (hn : s.NothingPending)
include hm hs hn

/-- With nothing recognised a halted chip stays as it is (R408). -/
theorem State.boundary_halted (hh : s.halted = true) : s.boundary = .next s := by
  simp [State.boundary, hm, hs, State.recognised_none hn, hh]

/-- With nothing recognised a waiting chip examines TEST again (R409). -/
theorem State.boundary_waiting (hh : s.halted = false) (hw : s.waiting = true) : s.boundary = s.waitAgain := by
  simp [State.boundary, hm, hs, State.recognised_none hn, hh, hw]

/-- With nothing recognised a repetition goes on (R302). -/
theorem State.boundary_repeating {i : Instr} (hh : s.halted = false) (hw : s.waiting = false)
    (hr : s.repeating = some i) : s.boundary = s.complete i := by
  simp [State.boundary, hm, hs, State.recognised_none hn, hh, hw, hr]

end

/-! ## A step that begins an instruction -/

/-- What consuming n instruction bytes leaves: IP is past them and nothing else of the chip differs (R26, R70). -/
theorem State.fetched_frame (s : State) (n : Nat) :
    (s.fetched n).IP = s.IP + BitVec.ofNat 16 n ∧ (s.fetched n).CS = s.CS ∧ SameRegs s (s.fetched n)
      ∧ (s.fetched n).flags = s.flags ∧ SameDataSegs s (s.fetched n) ∧ SameMemory s (s.fetched n)
      ∧ SameChip s (s.fetched n) ∧ ∀ x ∈ (s.fetched n).masterBytes, x ∈ s.masterBytes := by
  have h := s.fetched_form n
  obtain ⟨hseg, -, -, hchip⟩ := h.toTraffic.sameControl
  exact ⟨h.IP, h.CS, fun r => (h.sameRegs r).trans (by cases r <;> rfl), h.flags, hseg, h.same, hchip, h.masters⟩

/-- The fetch does not change what the point before the first iteration goes by. -/
theorem State.fetched_inside (s : State) (n : Nat) :
    ((s.fetched n).NmiInside ↔ s.NmiInside) ∧ ((s.fetched n).IntrInside ↔ s.IntrInside) := by
  have h := s.fetched_form n
  unfold State.NmiInside State.IntrInside
  rw [h.nmiLatch, h.pins, h.flags, h.stiShadow]
  exact ⟨Iff.rfl, Iff.rfl⟩

/-- A decoded instruction other than the three prefixes starts (R101). -/
theorem State.runFrom_start {n : Nat} {s : State} {i : Instr} {rest : List Byte}
    (hd : decode s.codeBytes = .ok (i, rest)) (hi : isPrefixInstr i = false) :
    State.runFrom (n + 1) s = (s.fetched (6 - rest.length)).start i := by
  rw [State.runFrom_decoded hd, hi]
  rfl

/-- Where no interrupt is taken before it, the iteration or the instruction runs (R301). -/
theorem State.start_runs {s : State} {i : Instr}
    (h : s.rep = none ∨ isStringInstr i = true
      ∧ (s.CX = 0#16 ∨ s.fullShadow = true ∨ (¬ s.NmiInside ∧ ¬ s.IntrInside))) : s.start i = s.complete i := by
  unfold State.start
  rcases h with hr | ⟨hi, h⟩
  · simp [hr]
  · cases s.rep with
    | none => rfl
    | some z =>
      rcases h with hc | hp
      · simp [hi, hc]
      · simp [hi, State.firstPoint_none hp]

/-- A decoded instruction other than the three prefixes runs, where no interrupt is taken before it (R15, R301). -/
theorem State.runFrom_runs {n : Nat} {s t : State} {i : Instr} {rest : List Byte}
    (hd : decode s.codeBytes = .ok (i, rest)) (hi : isPrefixInstr i = false)
    (h : s.rep = none ∨ isStringInstr i = true
      ∧ (s.CX = 0#16 ∨ s.fullShadow = true ∨ (¬ s.NmiInside ∧ ¬ s.IntrInside)))
    (ht : exec i (s.fetched (6 - rest.length)).unshadowed = .next t) :
    State.runFrom (n + 1) s = .next (if t.repeating = none then t.withoutPrefixes else t) := by
  have hf := (s.fetched_form (6 - rest.length)).toTraffic
  obtain ⟨hnmi, hintr⟩ := s.fetched_inside (6 - rest.length)
  rw [State.runFrom_start hd hi, State.start_runs ?_, State.complete_eq ht]
  rw [hf.rep, hf.CX, hf.fullShadow, hnmi, hintr]
  exact h

/-- One of the three prefixes, decoded, acts and the step goes on with what follows (R101). -/
theorem State.runFrom_prefix {n : Nat} {s t : State} {i : Instr} {rest : List Byte}
    (hd : decode s.codeBytes = .ok (i, rest)) (hi : isPrefixInstr i = true)
    (ht : exec i (s.fetched (6 - rest.length)) = .next t) : State.runFrom (n + 1) s = State.runFrom n t := by
  rw [State.runFrom_decoded hd, if_pos hi, ht]

/-- A step at a boundary where an instruction begins is that instruction with its prefixes (R15). -/
theorem step_begins {s u : State} (h : s.Sampled u) (hb : u.Begins) :
    step s = endStep s u (State.runFrom (65535 + 1) u.beginInstr) := by
  rw [State.advance_sampled h, State.boundary_begins hb]
  rfl

/-- Settles O5: a boundary where nothing is recognised runs the instruction the fetch delivers. -/
theorem stepRunsDecoded : Obligations.StepRunsDecoded := by
  intro s u v hs hb hv
  have hv : v = u.beginInstr := hv
  subst hv
  have hstep := step_begins hs hb
  refine ⟨fun e he => ?_, fun i rest n hd hn => ?_⟩
  · rw [hstep, State.runFrom_undecodable he]
    rfl
  · subst hn
    refine ⟨u.beginInstr.fetched_frame _, ?_⟩
    by_cases hi : isPrefixInstr i = true
    · obtain ⟨t, ht⟩ := exec_completes i (u.beginInstr.fetched (6 - rest.length))
      exact ⟨t, by rw [if_pos hi, hstep, State.runFrom_prefix hd hi ht]; exact ⟨ht, rfl⟩⟩
    · obtain ⟨t, ht⟩ := exec_completes i (u.beginInstr.fetched (6 - rest.length)).unshadowed
      have hrep : u.beginInstr.rep = none := hb.2.2.2.1.2.1
      exact ⟨t, by
        rw [if_neg hi, hstep, State.runFrom_runs hd (Bool.eq_false_iff.mpr hi) (.inl hrep) ht]
        exact ⟨ht, rfl⟩⟩

/-! ## The instruction after its prefixes -/

theorem not_prefix_of_string {i : Instr} (h : isStringInstr i = true) : isPrefixInstr i = false := by
  revert h
  cases i <;> simp [isStringInstr, isPrefixInstr]

/-- REP before anything but a string primitive is refused (R101, D29). -/
theorem State.start_refused {s : State} {i : Instr} (hr : s.rep.isSome = true) (hi : isStringInstr i = false) :
    s.start i = .refused (.repeatBeforeNonString i) := by
  obtain ⟨z, hz⟩ := Option.isSome_iff_exists.mp hr
  simp [State.start, hz, hi]

/-- What an interrupt sequence does says nothing of the repetition, the latch and the shadows (R440). -/
theorem InterruptTaken.recognition {s t : State} {ty : Byte} {ip : Word} {r : Option Instr} {n : Bool}
    (h : InterruptTaken { s with repeating := r, nmiLatch := n, lock := false } t ty ip) (td sq fs sti : Bool) :
    InterruptTaken { s with lock := false }
      { t with trapDue := td, afterSeq := sq, fullShadow := fs, stiShadow := sti } ty ip := h

/-- An interrupt taken at the point before the first iteration (R301, R302, R438): the sequence, which
saves the IP of the byte before the opcode; the latch is clear, no trap is due and the shadows are over. -/
theorem State.start_interrupted {s : State} {i : Instr} (hi : isStringInstr i = true) (hr : s.rep.isSome = true)
    (hc : s.CX ≠ 0#16) (hf : s.fullShadow = false) (h : s.NmiInside ∨ s.IntrInside) :
    ∃ ty t, (s.NmiInside → ty = 0x02#8) ∧ (¬ s.NmiInside → ∀ p, s.pins = some p → ty = p.inside.intaType)
      ∧ s.start i = .next t ∧ InterruptTaken { s with lock := false } t ty (s.IP - 2#16)
      ∧ t.nmiLatch = false ∧ t.trapDue = false ∧ t.afterSeq = true ∧ t.fullShadow = false ∧ t.stiShadow = false := by
  obtain ⟨z, hz⟩ := Option.isSome_iff_exists.mp hr
  obtain ⟨ty, u, hu, hread, hnmi, hintr⟩ := State.firstPoint_some (i := i) hf h
  have hstart : s.start i = .next { u.takeInterrupt ty with trapDue := false } := by
    simp [State.start, hz, hi, hc, hu]
  have hsaved : u.savedIP = s.IP - 2#16 := by
    simp only [State.savedIP, hread.repeating, hread.IP]
  have hlock : { u with lock := false } = u := by
    have : u.lock = false := hread.lock
    rw [← this]
  have htake : u.takeInterrupt ty =
      { u.interrupt ty (s.IP - 2#16) with afterSeq := true, fullShadow := false, stiShadow := false } := by
    rw [State.takeInterrupt, hlock, hsaved]
  obtain ⟨htaken, hrec⟩ := State.interrupt_taken u ty (s.IP - 2#16)
  generalize u.interrupt ty (s.IP - 2#16) = w at htake htaken hrec
  refine ⟨ty, { w with trapDue := false, afterSeq := true, fullShadow := false, stiShadow := false }, hnmi, hintr,
    by rw [hstart, htake], (htaken.before hread).recognition false true false false, ?_, rfl, rfl, rfl, rfl⟩
  exact hrec.1.trans hread.nmiLatch

/-- Settles O6: the instruction after its prefixes, and the recognition point before a repetition. -/
theorem prefixedInstructionRuns : Obligations.PrefixedInstructionRuns := by
  refine ⟨fun s u hs hr hp => ?_, fun n s _ => ⟨fun e he => State.runFrom_undecodable he, ?_⟩⟩
  · rw [State.advance_sampled hs, State.boundary_prefixed hr hp]
    rfl
  · rintro i rest v hd rfl
    have hf := (s.fetched_form (6 - rest.length)).toTraffic
    refine ⟨fun hi => ?_, fun hi hz hstr => ?_, fun hi hrun => ?_, fun hstr hz hc hfs hin => ?_⟩
    · obtain ⟨t, ht⟩ := exec_completes i (s.fetched (6 - rest.length))
      exact ⟨t, ht, State.runFrom_prefix hd hi ht⟩
    · rw [State.runFrom_start hd hi, State.start_refused (by rw [hf.rep]; exact hz) hstr]
    · obtain ⟨t, ht⟩ := exec_completes i (s.fetched (6 - rest.length)).unshadowed
      exact ⟨t, ht, State.runFrom_runs hd hi hrun ht⟩
    · obtain ⟨hnmi, hintr⟩ := s.fetched_inside (6 - rest.length)
      obtain ⟨ty, t, h1, h2, h3, h4, h5⟩ := State.start_interrupted (s := s.fetched (6 - rest.length)) hstr
        (by rw [hf.rep]; exact hz) (by rw [hf.CX]; exact hc) (by rw [hf.fullShadow]; exact hfs)
        (by rwa [hnmi, hintr])
      rw [hnmi] at h1 h2
      rw [hf.pins] at h2
      exact ⟨ty, t, h1, h2, (State.runFrom_start hd (not_prefix_of_string hstr)).trans h3, h4, hf.IP, h5⟩

/-! ## Nothing recognised -/

/-- A halted chip does not prefetch (R408). -/
theorem State.prefetch_halted {s : State} (h : s.halted = true) : s.prefetch = s := by
  have hc : (true && !s.halted) = false := by simp [h]
  unfold State.prefetch State.prefetchIf
  rw [hc]
  rfl

/-- The cycles a step has run before its boundary are none, or the halt status of a halted chip that has the bus back
(R408, R475). -/
theorem State.Sampled.bus {s u : State} (h : s.Sampled u) (hh : u.halted = true) :
    u.stalled = false ∧ (u.bus = s.bus ∨ ∃ c, u.bus = c :: s.bus ∧ c.kind = .halt) := by
  obtain ⟨v, hv, -, rfl⟩ := h
  obtain ⟨hstall, hbus⟩ : v.stalled = false ∧ v.bus = s.bus := by
    rcases hv with ⟨-, rfl⟩ | ⟨p, ps, -, -, -, rfl⟩ <;> exact ⟨rfl, rfl⟩
  obtain ⟨q, b, d, n, e⟩ := v.reclaimBus_form
  have hhv : v.halted = true := by rw [e] at hh; exact hh
  refine ⟨by rw [e]; exact hstall, ?_⟩
  unfold State.reclaimBus
  split
  · simp only [hhv]
    exact .inr ⟨_, congrArg _ hbus, rfl⟩
  · exact .inl hbus

/-- The end of a step whose boundary left a halted chip as it was changes nothing. -/
theorem State.ended_halted {s u : State} (h : s.Sampled u) (hh : u.halted = true) : s.ended u u = u := by
  obtain ⟨hstall, hbus⟩ := h.bus hh
  have hany : ((u.bus.take (u.bus.length - s.bus.length)).any fun c => c.kind != .halt) = u.stalled := by
    rw [hstall]
    rcases hbus with hb | ⟨c, hb, hc⟩
    · simp [hb]
    · simp [hb, hc]
  unfold State.ended
  rw [State.prefetch_halted hh, hany]
  exact ite_self _

/-- An examination of TEST leaves prefixes and repetition as they are (R409). -/
theorem exec_wait_control {s t : State} (h : exec .wait s = .next t) :
    t.repeating = s.repeating ∧ (s.noPrefix → t.noPrefix) := by
  cases h
  exact ⟨rfl, id⟩

/-- Settles O56: a halted chip stays, a waiting one examines TEST, a repetition goes on. -/
theorem nothingRecognised : Obligations.NothingRecognised := by
  intro s u hs hshadow hn
  rw [State.advance_sampled hs]
  refine ⟨fun hh hp => ?_, fun hh hw hr hp => ?_, fun i hh hw hr => ?_⟩
  · rw [State.boundary_halted (State.midInstruction_false (.inl hp)) hshadow hn hh]
    exact congrArg _ (State.ended_halted hs hh)
  · obtain ⟨t, ht⟩ := exec_completes .wait { u with IP := u.IP + 1#16 }.beginInstr.unshadowed
    obtain ⟨hrep, hpre⟩ := exec_wait_control ht
    refine ⟨t, ht, ?_⟩
    rw [State.boundary_waiting (State.midInstruction_false (.inl hp)) hshadow hn hh hw, State.waitAgain,
      State.complete_eq ht, if_pos (hrep.trans hr), State.withoutPrefixes_noPrefix (hpre hp)]
    rfl
  · obtain ⟨t, ht⟩ := exec_completes i u.unshadowed
    refine ⟨t, ht, ?_⟩
    rw [State.boundary_repeating (State.midInstruction_false (.inr (by simp [hr]))) hshadow hn hh hw hr,
      State.complete_eq ht]
    rfl

end Sys2Proof.Machine
end

section
/-! PROOFS. ADD, ADC, SUB, SBB and CMP in all their forms (O26, O27): the flag helpers of R12 against exact integers,
and the one way a two-operand instruction runs. -/

namespace Sys2Proof.Machine

/-! ## The flag helpers of R12, as exact integers -/

/-- The parity of eight bits is that of how many of them are set. -/
theorem parity_bits : ∀ b0 b1 b2 b3 b4 b5 b6 b7 : Bool,
    (!(b0 ^^ b1 ^^ b2 ^^ b3 ^^ b4 ^^ b5 ^^ b6 ^^ b7)) = true
      ↔ ([b0, b1, b2, b3, b4, b5, b6, b7].filter id).length % 2 = 0 := by
  decide

theorem parityEven_iff {n : Nat} (r : BitVec n) : parityEven r = true ↔ onesInLowByte r % 2 = 0 := by
  have hlen : onesInLowByte r = (((List.range 8).map r.getLsbD).filter id).length := by
    rw [List.filter_map, List.length_map]
    rfl
  rw [hlen]
  exact parity_bits _ _ _ _ _ _ _ _

/-- `set_szp` sets SF, ZF and PF as the result's sign, zero and low parity (R12). -/
theorem Flags.szpOf_of_eq {n : Nat} {f g : Flags} {r : BitVec n} (hs : f.SF = (g.setSzp r).SF)
    (hz : f.ZF = (g.setSzp r).ZF) (hp : f.PF = (g.setSzp r).PF) : SzpOf f r := by
  refine ⟨?_, ?_, ?_⟩
  · rw [hs]
    exact (congrArg (· = true) BitVec.msb_eq_toInt).to_iff.trans decide_eq_true_iff
  · rw [hz]
    exact beq_iff_eq.trans ⟨fun h => by simp [h], fun h => BitVec.eq_of_toNat_eq (by simpa using h)⟩
  · rw [hp]
    exact parityEven_iff r

theorem two_pow_eq {n : Nat} (hn : 0 < n) : 2 ^ n = 2 * 2 ^ (n - 1) := by
  rw [← Nat.pow_succ', Nat.succ_eq_add_one, Nat.sub_add_cancel hn]

/-- The signed value of a bit vector by its unsigned one, with M = 2^(n-1): less 2M from M on. -/
theorem toInt_cases {n : Nat} (hn : 0 < n) (x : BitVec n) :
    x.toNat < 2 * 2 ^ (n - 1)
      ∧ (2 ^ (n - 1) ≤ x.toNat ∧ x.toInt = (x.toNat : Int) - 2 * ((2 ^ (n - 1) : Nat) : Int)
        ∨ x.toNat < 2 ^ (n - 1) ∧ x.toInt = x.toNat) := by
  have hcast : ((2 ^ n : Nat) : Int) = 2 * ((2 ^ (n - 1) : Nat) : Int) := by
    rw [two_pow_eq hn, Int.natCast_mul]
    rfl
  have hint := BitVec.toInt_eq_msb_cond x
  rw [BitVec.msb_eq_decide] at hint
  refine ⟨two_pow_eq hn ▸ x.isLt, ?_⟩
  by_cases h : 2 ^ (n - 1) ≤ x.toNat
  · exact .inl ⟨h, by rw [hint, if_pos (decide_eq_true h), ← hcast]⟩
  · exact .inr ⟨Nat.lt_of_not_le h, by rw [hint, if_neg (by simpa using h)]⟩

theorem carryIn_le (c : Bool) : carryIn c ≤ 1 := by cases c <;> decide

theorem addResult_toNat {n : Nat} (a b : BitVec n) (c : Bool) :
    (addResult a b c).toNat = (a.toNat + b.toNat + carryIn c) % 2 ^ n := BitVec.toNat_ofNat ..

/-- A difference modulo 2^n, as an integer. -/
theorem sub_toNat {n : Nat} (x y : BitVec n) : ((x - y).toNat : Int) = ((x.toNat : Int) - y.toNat) % 2 ^ n := by
  have hx := x.isLt
  have hy := y.isLt
  have hcast : ((2 ^ n : Nat) : Int) = 2 ^ n := Int.natCast_pow 2 n
  rw [BitVec.toNat_sub, ← hcast]
  by_cases h : y.toNat ≤ x.toNat
  · have hnat : 2 ^ n - y.toNat + x.toNat = x.toNat - y.toNat + 2 ^ n := by omega
    rw [hnat, Nat.add_mod_right, Nat.mod_eq_of_lt (by omega), Int.emod_eq_of_lt (by omega) (by omega)]
    omega
  · rw [Nat.mod_eq_of_lt (by omega), ← Int.add_emod_right, Int.emod_eq_of_lt (by omega) (by omega)]
    omega

theorem subResult_toNat {n : Nat} (hn : 0 < n) (a b : BitVec n) (c : Bool) :
    ((subResult a b c).toNat : Int) = ((a.toNat : Int) - b.toNat - carryIn c) % 2 ^ n := by
  have hc : carryIn c < 2 ^ n := Nat.lt_of_le_of_lt (carryIn_le c) (Nat.one_lt_two_pow (Nat.ne_of_gt hn))
  rw [subResult, sub_toNat, sub_toNat, BitVec.toNat_ofNat, Nat.mod_eq_of_lt hc, Int.emod_sub_emod]

/-- The sum is the exact one, or 2^n less. -/
theorem addResult_cases {n : Nat} (hn : 0 < n) (a b : BitVec n) (c : Bool) :
    (addResult a b c).toNat = a.toNat + b.toNat + carryIn c
      ∨ (addResult a b c).toNat + 2 * 2 ^ (n - 1) = a.toNat + b.toNat + carryIn c := by
  have ha := a.isLt
  have hb := b.isLt
  have hc := carryIn_le c
  rw [addResult_toNat, ← two_pow_eq hn]
  by_cases h : a.toNat + b.toNat + carryIn c < 2 ^ n
  · exact .inl (Nat.mod_eq_of_lt h)
  · right
    rw [Nat.mod_eq_sub_mod (Nat.le_of_not_lt h), Nat.mod_eq_of_lt (by omega), Nat.sub_add_cancel (Nat.le_of_not_lt h)]

/-- The difference is the exact one, or 2^n more. -/
theorem subResult_cases {n : Nat} (hn : 0 < n) (a b : BitVec n) (c : Bool) :
    (subResult a b c).toNat + b.toNat + carryIn c = a.toNat
      ∨ (subResult a b c).toNat + b.toNat + carryIn c = a.toNat + 2 * 2 ^ (n - 1) := by
  have ha := a.isLt
  have hb := b.isLt
  have hc := carryIn_le c
  have hr := subResult_toNat hn a b c
  rw [← two_pow_eq hn]
  have hcast : ((2 ^ n : Nat) : Int) = 2 ^ n := Int.natCast_pow 2 n
  by_cases h : b.toNat + carryIn c ≤ a.toNat
  · rw [Int.emod_eq_of_lt (by omega) (by omega)] at hr
    omega
  · rw [← Int.add_emod_right, Int.emod_eq_of_lt (by omega) (by omega)] at hr
    omega

/-- `Fits` with the power as a natural number. -/
theorem fits_iff (n : Nat) (x : Int) :
    Fits n x ↔ -((2 ^ (n - 1) : Nat) : Int) ≤ x ∧ x < ((2 ^ (n - 1) : Nat) : Int) := by
  unfold Fits
  rw [Int.natCast_pow]
  exact Iff.rfl

/-- OF of `add_n`: operands of one sign and a result of the other, exactly when the signed sum does not fit (R12). -/
theorem add_overflow_iff {n : Nat} (hn : 0 < n) (a b : BitVec n) (c : Bool) :
    (a.msb == b.msb && (addResult a b c).msb != a.msb) = true ↔ ¬ Fits n (a.toInt + b.toInt + carryIn c) := by
  have ha := toInt_cases hn a
  have hb := toInt_cases hn b
  have hr := (toInt_cases hn (addResult a b c)).1
  have hsum := addResult_cases hn a b c
  have hc := carryIn_le c
  simp only [fits_iff, BitVec.msb_eq_decide, Bool.and_eq_true, beq_iff_eq, bne_iff_ne, ne_eq, decide_eq_decide]
  generalize 2 ^ (n - 1) = M at *
  omega

/-- OF of `sub_n`: operands of different signs and a result whose sign is not the first's, exactly when the signed
difference does not fit (R12). -/
theorem sub_overflow_iff {n : Nat} (hn : 0 < n) (a b : BitVec n) (c : Bool) :
    (a.msb != b.msb && (subResult a b c).msb != a.msb) = true ↔ ¬ Fits n (a.toInt - b.toInt - carryIn c) := by
  have ha := toInt_cases hn a
  have hb := toInt_cases hn b
  have hr := (toInt_cases hn (subResult a b c)).1
  have hdiff := subResult_cases hn a b c
  have hc := carryIn_le c
  simp only [fits_iff, BitVec.msb_eq_decide, Bool.and_eq_true, bne_iff_ne, ne_eq, decide_eq_decide]
  generalize 2 ^ (n - 1) = M at *
  omega

/-- `add_n` gives the exact sum and its six flags (R12). -/
theorem Flags.ofAdd_addsTo {n : Nat} (hn : 0 < n) (f : Flags) (a b : BitVec n) (c : Bool) :
    AddsTo (f.ofAdd a b c) a b (carryIn c) (addResult a b c) :=
  ⟨addResult_toNat a b c, Flags.szpOf_of_eq (g := f) rfl rfl rfl, decide_eq_true_iff, decide_eq_true_iff,
    add_overflow_iff hn a b c⟩

/-- `sub_n` gives the exact difference and its six flags (R12). -/
theorem Flags.ofSub_subtractsTo {n : Nat} (hn : 0 < n) (f : Flags) (a b : BitVec n) (c : Bool) :
    SubtractsTo (f.ofSub a b c) a b (carryIn c) (subResult a b c) :=
  ⟨subResult_toNat hn a b c, Flags.szpOf_of_eq (g := f) rfl rfl rfl, decide_eq_true_iff, decide_eq_true_iff,
    sub_overflow_iff hn a b c⟩

/-! ## Operands before and after a reading -/

theorem SameRegs.trans {s t u : State} (h : SameRegs s t) (k : SameRegs t u) : SameRegs s u := fun r =>
  (k r).trans (h r)

/-- Flags and draws are no registers. -/
theorem SameRegs.ofFlags (s : State) (f : Flags) (d : Nat) : SameRegs s { s with flags := f, draws := d } := fun r => by
  cases r <;> rfl

/-- A write of a register is a write of one word register, by what it held (R21, R22, R117). -/
theorem State.setReg_eq_setReg16 (w : Width) (n : RegNum) (v : BitVec w.bits) :
    ∃ (q : Reg16) (g : Word → Word), ∀ s : State, s.setReg w n v = s.setReg16 q (g (s.reg16 q)) := by
  cases w with
  | word => exact ⟨n.reg16, fun _ => v, fun _ => rfl⟩
  | byte =>
    cases n with
    | axAl => exact ⟨.ax, fun x => wordOf v (highByte x), fun _ => rfl⟩
    | cxCl => exact ⟨.cx, fun x => wordOf v (highByte x), fun _ => rfl⟩
    | dxDl => exact ⟨.dx, fun x => wordOf v (highByte x), fun _ => rfl⟩
    | bxBl => exact ⟨.bx, fun x => wordOf v (highByte x), fun _ => rfl⟩
    | spAh => exact ⟨.ax, fun x => wordOf (lowByte x) v, fun _ => rfl⟩
    | bpCh => exact ⟨.cx, fun x => wordOf (lowByte x) v, fun _ => rfl⟩
    | siDh => exact ⟨.dx, fun x => wordOf (lowByte x) v, fun _ => rfl⟩
    | diBh => exact ⟨.bx, fun x => wordOf (lowByte x) v, fun _ => rfl⟩

/-- A register written in two states with the same registers leaves the same registers. -/
theorem SameRegs.setReg {s t : State} (h : SameRegs s t) (w : Width) (n : RegNum) (v : BitVec w.bits) :
    SameRegs (s.setReg w n v) (t.setReg w n v) := fun r => by
  obtain ⟨q, g, e⟩ := State.setReg_eq_setReg16 w n v
  rw [e s, e t, h q]
  by_cases hr : r = q
  · subst hr
    simp
  · rw [State.reg16_setReg16_other _ _ _ _ hr, State.reg16_setReg16_other _ _ _ _ hr, h r]

/-- A register is the same in two states with the same registers. -/
theorem SameRegs.reg {s t : State} (h : SameRegs s t) (w : Width) (n : RegNum) : t.reg w n = s.reg w n := by
  have ax : t.AX = s.AX := h .ax
  have cx : t.CX = s.CX := h .cx
  have dx : t.DX = s.DX := h .dx
  have bx : t.BX = s.BX := h .bx
  cases w with
  | word => exact h n.reg16
  | byte => cases n <;> simp only [State.reg, RegNum.reg8, State.reg8, ax, cx, dx, bx]

theorem OperandIs.before {s u : State} {w : Width} {l : Loc} {v : BitVec w.bits} (h : Reading s u)
    (k : OperandIs u w l v) : OperandIs s w l v := by
  cases l with
  | reg n => exact Eq.trans k (h.sameRegs.reg w n)
  | mem sr seg off => exact Reads.before h k

/-- What writes an operand after a reading writes it. -/
theorem WritesLoc.before {s u t : State} {w : Width} {l : Loc} {v : BitVec w.bits} (h : Reading s u)
    (k : WritesLoc u t w l v) : WritesLoc s t w l v := by
  cases l with
  | reg n => exact ⟨(h.sameRegs.setReg w n v).trans k.1, h.same.trans k.2 h.masters⟩
  | mem sr seg off => exact ⟨h.sameRegs.trans k.1, MemoryAfter.before h k.2⟩

/-- Writing an operand does not depend on flags and draws. -/
theorem WritesLoc.ofFlags {s t : State} {w : Width} {l : Loc} {v : BitVec w.bits} {f : Flags} {d : Nat}
    (k : WritesLoc { s with flags := f, draws := d } t w l v) : WritesLoc s t w l v := by
  cases l with
  | reg n => exact ⟨((SameRegs.ofFlags s f d).setReg w n v).trans k.1, k.2⟩
  | mem sr seg off => exact ⟨(SameRegs.ofFlags s f d).trans k.1, k.2⟩

/-! ## A two-operand instruction -/

/-- A two-operand instruction leaves the flags of its operation, and writes its result where it writes one (R200,
R260). -/
theorem State.aluLoc_writes (s : State) (op : AluOp) (w : Width) (l : Loc) (b : BitVec w.bits) :
    (∃ af, (s.aluLoc op w l b).flags = op.flags s.flags (s.readLoc w l).1 b af)
      ∧ if op.writes then WritesLoc s (s.aluLoc op w l b) w l (op.result (s.readLoc w l).1 b s.flags.CF)
        else SameRegs s (s.aluLoc op w l b) ∧ SameMemory s (s.aluLoc op w l b) := by
  have h := State.readLoc_reading s w l
  have e : s.aluLoc op w l b =
      if op.writes then
        ((s.readLoc w l).2.aluFlags op (s.readLoc w l).1 b).writeLoc w l (op.result (s.readLoc w l).1 b s.flags.CF)
      else (s.readLoc w l).2.aluFlags op (s.readLoc w l).1 b := rfl
  have hf : ((s.readLoc w l).2.aluFlags op (s.readLoc w l).1 b).flags =
      op.flags s.flags (s.readLoc w l).1 b (Config.freeBit (s.readLoc w l).2.draws) := by
    rw [← h.flags]
    rfl
  rw [e]
  split
  · obtain ⟨_, _, _, _, _, _, _, _, k⟩ := State.writeLoc_form
      ((s.readLoc w l).2.aluFlags op (s.readLoc w l).1 b) w l (op.result (s.readLoc w l).1 b s.flags.CF)
    exact ⟨⟨_, k.flags.trans hf⟩, (State.writeLoc_writes _ w l _).ofFlags.before h⟩
  · exact ⟨⟨_, hf⟩, h.sameRegs.trans (SameRegs.ofFlags _ _ _), h.same⟩

/-- A two-operand instruction whose result and flags are related by `rel` has that effect (R117, R200). -/
theorem State.aluLoc_effect (s : State) (op : AluOp) (w : Width) (l : Loc) (b : BitVec w.bits)
    {rel : BitVec w.bits → BitVec w.bits → Flags → Prop}
    (hrel : ∀ a af, rel a (op.result a b s.flags.CF) (op.flags s.flags a b af)) :
    AluEffect s (s.aluLoc op w l b) w l op.writes rel := by
  obtain ⟨_, _, _, _, _, _, _, _, f, k, hc⟩ := State.aluLoc_form s op w l b
  obtain ⟨⟨af, hf⟩, hw⟩ := State.aluLoc_writes s op w l b
  refine ⟨(s.readLoc w l).1, _, State.readLoc_is s w l, ?_, ?_, hw, k.sameControl⟩
  · rw [hf]
    exact hrel _ af
  · rw [k.flags]
    exact hc

theorem SameControl.before {s u t : State} (h : Reading s u) (k : SameControl u t) : SameControl s t := by
  have e := h.form
  rw [e] at k
  exact k

/-- The effect of a two-operand instruction after a reading is its effect. -/
theorem AluEffect.before {s u t : State} {w : Width} {l : Loc} {writes : Bool}
    {rel : BitVec w.bits → BitVec w.bits → Flags → Prop} (h : Reading s u) (k : AluEffect u t w l writes rel) :
    AluEffect s t w l writes rel := by
  obtain ⟨a, r, ha, hr, hc, hw, hk⟩ := k
  refine ⟨a, r, ha.before h, hr, h.flags ▸ hc, ?_, hk.before h⟩
  split
  · rename_i he
    rw [if_pos he] at hw
    exact hw.before h
  · rename_i he
    rw [if_neg he] at hw
    exact ⟨h.sameRegs.trans hw.1, h.same.trans hw.2 h.masters⟩

theorem width_bits_pos (w : Width) : 0 < w.bits := by cases w <;> decide

/-- The three forms of a two-operand instruction whose result and flags are related by `rel` (R201 to R206, R211 to
R216, R220 to R222). -/
theorem arithmeticForms (s : State) (op : AluOp) {rmReg : Dir → Width → RM → RegNum → Instr}
    {rmImm : RM → ImmSW → Instr} {accImm : Imm → Instr}
    {rel : (n : Nat) → BitVec n → BitVec n → BitVec n → Flags → Prop}
    (hrel : ∀ n, 0 < n → ∀ (a b : BitVec n) af, rel n a b (op.result a b s.flags.CF) (op.flags s.flags a b af))
    (hrmReg : ∀ d w rm reg, exec (rmReg d w rm reg) s = .next (s.aluRmReg op d w rm reg))
    (hrmImm : ∀ rm imm, exec (rmImm rm imm) s = .next (s.aluLoc op (immWidth imm) (s.loc rm) (immValue imm)))
    (haccImm : ∀ imm, exec (accImm imm) s = .next (s.aluLoc op imm.width (.reg .axAl) (dataValue imm))) :
    ArithmeticForms s rmReg rmImm accImm op.writes rel := by
  refine ⟨fun w rm reg => ?_, fun w rm reg => ?_, fun rm imm => ?_, fun imm => ?_⟩
  · exact ⟨_, hrmReg .fromReg w rm reg, s.aluLoc_effect op w _ _ fun a af => hrel _ (width_bits_pos w) a _ af⟩
  · have h := State.readLoc_reading s w (s.loc rm)
    refine ⟨_, _, State.readLoc_is s w (s.loc rm), hrmReg .toReg w rm reg, AluEffect.before h ?_⟩
    refine State.aluLoc_effect _ op w (.reg reg) _ fun a af => ?_
    rw [h.flags]
    exact hrel _ (width_bits_pos w) a _ af
  · exact ⟨_, hrmImm rm imm, s.aluLoc_effect op _ _ _ fun a af => hrel _ (width_bits_pos _) a _ af⟩
  · exact ⟨_, haccImm imm, s.aluLoc_effect op _ _ _ fun a af => hrel _ (width_bits_pos _) a _ af⟩

/-- Settles O26: ADD and ADC give the exact sum and its six flags in all forms. -/
theorem additionResults : Obligations.AdditionResults := fun s =>
  ⟨arithmeticForms s .add (fun _ hn a b _ => Flags.ofAdd_addsTo hn s.flags a b false) (fun _ _ _ _ => rfl)
      (fun _ _ => rfl) fun _ => rfl,
    arithmeticForms s .adc (fun _ hn a b _ => Flags.ofAdd_addsTo hn s.flags a b s.flags.CF) (fun _ _ _ _ => rfl)
      (fun _ _ => rfl) fun _ => rfl⟩

/-- Settles O27: SUB, SBB and CMP give the exact difference and its six flags in all forms; CMP writes nothing. -/
theorem subtractionResults : Obligations.SubtractionResults := fun s =>
  ⟨arithmeticForms s .sub (fun _ hn a b _ => Flags.ofSub_subtractsTo hn s.flags a b false) (fun _ _ _ _ => rfl)
      (fun _ _ => rfl) fun _ => rfl,
    arithmeticForms s .sbb (fun _ hn a b _ => Flags.ofSub_subtractsTo hn s.flags a b s.flags.CF) (fun _ _ _ _ => rfl)
      (fun _ _ => rfl) fun _ => rfl,
    arithmeticForms s .cmp (fun _ hn a b _ => Flags.ofSub_subtractsTo hn s.flags a b false) (fun _ _ _ _ => rfl)
      (fun _ _ => rfl) fun _ => rfl⟩

end Sys2Proof.Machine
end

section
/-! PROOFS. No step changes a parameter or a byte that is not RAM (O11): first the operations, then the instructions,
then the step. -/

namespace Sys2Proof.Machine

/-- The parameters, and the bytes where no RAM answers, are those of `s` (R6, R79). -/
def KeepsRom (s t : State) : Prop :=
  t.params = s.params ∧ ∀ a : PAddr, kindAt s.params.memMap a ≠ .ram → t.byteAt a = s.byteAt a

theorem KeepsRom.refl (s : State) : KeepsRom s s := ⟨rfl, fun _ _ => rfl⟩

theorem KeepsRom.trans {s t u : State} (h : KeepsRom s t) (k : KeepsRom t u) : KeepsRom s u :=
  ⟨k.1.trans h.1, fun a ha => (k.2 a (by rwa [h.1])).trans (h.2 a ha)⟩

theorem KeepsRom.of_mem {s t : State} (hp : t.params = s.params) (hm : t.mem = s.mem) : KeepsRom s t :=
  ⟨hp, fun a _ => by rw [State.byteAt, hm]; rfl⟩

/-- What keeps them goes by parameters and memory alone. -/
theorem KeepsRom.congr {s t u : State} (h : KeepsRom s t) (hp : u.params = t.params) (hm : u.mem = t.mem) :
    KeepsRom s u := h.trans (.of_mem hp hm)

/-! ## The bus -/

/-- A byte is stored only where RAM answers (R79). -/
theorem State.storeByte_keepsRom (s : State) (pa : PAddr) (v : Byte) : KeepsRom s (s.storeByte pa v) :=
  ⟨rfl, fun a ha => by rw [State.byteAt_storeByte, if_neg ha, ite_self]⟩

theorem State.prefetchIf_keepsRom (s : State) (c : Bool) : KeepsRom s (s.prefetchIf c) := .of_mem rfl rfl

theorem State.honour_keepsRom (c : Bool) (ws : List (PAddr × Byte)) (s : State) :
    KeepsRom s (State.honour c ws s) := by
  induction ws generalizing s with
  | nil => exact .refl s
  | cons w ws ih => exact (s.storeByte_keepsRom w.1 w.2).trans ((State.prefetchIf_keepsRom _ c).trans (ih _))

/-- Other masters, too, change RAM alone (R79, R80). -/
theorem State.arbitrate_keepsRom (s : State) (g : Gap) : KeepsRom s (s.arbitrate g) := by
  refine ⟨rfl, fun a ha => ?_⟩
  show Memory.read (State.mem (if _ then _ else _)) _ = _
  split
  · exact (State.honour_keepsRom _ _ s).2 a ha
  · rfl

theorem State.gap_keepsRom (s : State) (g : Gap) : KeepsRom s (s.gap g) :=
  (s.prefetchIf_keepsRom _).trans (State.arbitrate_keepsRom _ g)

theorem State.readPhys_keepsRom (s : State) (g : Gap) (sg : SegStatus) (pa : PAddr) :
    KeepsRom s (s.readPhys g sg pa).2 := s.gap_keepsRom g

theorem State.writePhys_keepsRom (s : State) (g : Gap) (sg : SegStatus) (pa : PAddr) (v : Byte) :
    KeepsRom s (s.writePhys g sg pa v) := ((s.gap_keepsRom g).trans (State.storeByte_keepsRom _ pa v)).congr rfl rfl

/-! ## Operands, the stack and ports -/

theorem State.memRead_keepsRom (s : State) (sr : SReg) (seg off : Word) (w : Width) :
    KeepsRom s (s.memRead sr seg off w).2 := by
  cases w with
  | byte => exact s.readPhys_keepsRom _ _ _
  | word => exact (s.readPhys_keepsRom _ _ _).trans (State.readPhys_keepsRom _ _ _ _)

theorem State.memWrite_keepsRom (s : State) (sr : SReg) (seg off : Word) (w : Width) (v : BitVec w.bits) :
    KeepsRom s (s.memWrite sr seg off w v) := by
  cases w with
  | byte => exact s.writePhys_keepsRom _ _ _ _
  | word => exact (s.writePhys_keepsRom _ _ _ _).trans (State.writePhys_keepsRom _ _ _ _ _)

theorem State.setReg_keepsRom (s : State) (w : Width) (n : RegNum) (v : BitVec w.bits) :
    KeepsRom s (s.setReg w n v) := by
  obtain ⟨_, _, _, _, _, _, _, _, h⟩ := State.setReg_form s w n v
  rw [h]
  exact .of_mem rfl rfl

theorem State.setReg16_keepsRom (s : State) (r : Reg16) (v : Word) : KeepsRom s (s.setReg16 r v) := by
  obtain ⟨_, _, _, _, _, _, _, _, h⟩ := State.setReg16_form s r v
  rw [h]
  exact .of_mem rfl rfl

theorem State.setReg8_keepsRom (s : State) (r : Reg8) (v : Byte) : KeepsRom s (s.setReg8 r v) := by
  obtain ⟨_, _, _, _, _, _, _, _, h⟩ := State.setReg8_form s r v
  rw [h]
  exact .of_mem rfl rfl

theorem State.setDataSReg_keepsRom (s : State) (sr : DataSReg) (v : Word) : KeepsRom s (s.setDataSReg sr v) := by
  obtain ⟨_, _, _, h⟩ := State.setDataSReg_form s sr v
  rw [h]
  exact .of_mem rfl rfl

theorem State.readLoc_keepsRom (s : State) (w : Width) (l : Loc) : KeepsRom s (s.readLoc w l).2 := by
  cases l with
  | reg n => exact .refl s
  | mem sr seg off => exact s.memRead_keepsRom sr seg off w

theorem State.writeLoc_keepsRom (s : State) (w : Width) (l : Loc) (v : BitVec w.bits) :
    KeepsRom s (s.writeLoc w l v) := by
  cases l with
  | reg n => exact s.setReg_keepsRom w n v
  | mem sr seg off => exact s.memWrite_keepsRom sr seg off w v

theorem State.readPointer_keepsRom (s : State) (m : MemOp) : KeepsRom s (s.readPointer m).2.2 :=
  (s.memRead_keepsRom _ _ _ .word).trans (State.memRead_keepsRom _ _ _ _ .word)

theorem State.pushOf_keepsRom (s : State) (f : State → Word) : KeepsRom s (s.pushOf f) :=
  State.memWrite_keepsRom { s with SP := s.SP - 2#16 } .ss _ _ .word _

theorem State.push16_keepsRom (s : State) (v : Word) : KeepsRom s (s.push16 v) := s.pushOf_keepsRom _

theorem State.pop16_keepsRom (s : State) : KeepsRom s s.pop16.2 :=
  (s.memRead_keepsRom .ss s.SS s.SP .word).congr rfl rfl

theorem State.ioRead_keepsRom (s : State) (port : Word) (w : Width) : KeepsRom s (s.ioRead port w).2 := by
  have hbyte : ∀ (s : State) g port, KeepsRom s (s.ioReadByte g port).2 := fun s g _ =>
    (s.gap_keepsRom g).congr rfl rfl
  cases w with
  | byte => exact hbyte s _ port
  | word => exact (hbyte s _ port).trans (hbyte _ _ _)

theorem State.ioWrite_keepsRom (s : State) (port : Word) (w : Width) (v : BitVec w.bits) :
    KeepsRom s (s.ioWrite port w v) := by
  have hbyte : ∀ (s : State) g port v, KeepsRom s (s.ioWriteByte g port v) := fun s g _ _ =>
    (s.gap_keepsRom g).congr rfl rfl
  cases w with
  | byte => exact hbyte s _ port v
  | word => exact (hbyte s _ port _).trans (hbyte _ _ _ _)

/-! ## Interrupts -/

theorem State.readVector_keepsRom (s : State) (t : Byte) (k : Nat) : KeepsRom s (s.readVector t k).2 :=
  (s.readPhys_keepsRom _ _ _).trans (State.readPhys_keepsRom _ _ _ _)

theorem State.pushFrame_keepsRom (s : State) (ip : Word) : KeepsRom s (s.pushFrame ip) := by
  rw [State.pushFrame_eq]
  have hflags : KeepsRom s { s.push16 (s.flags.image s.params.flagsX) with
      flags := { s.flags with IF := false, TF := false } } := (s.push16_keepsRom _).congr rfl rfl
  exact hflags.trans ((State.push16_keepsRom _ s.CS).trans (State.push16_keepsRom _ ip))

theorem State.interrupt_keepsRom (s : State) (t : Byte) (ip : Word) : KeepsRom s (s.interrupt t ip) := by
  have hread := (s.pushFrame_keepsRom ip).trans
    ((State.readVector_keepsRom _ t 0).trans (State.readVector_keepsRom _ t 2))
  unfold State.interrupt
  simp only []
  generalize ((s.pushFrame ip).readVector t 0).2.readVector t 2 = cs at hread ⊢
  exact hread.congr rfl rfl

theorem State.interruptReturn_keepsRom (s : State) : KeepsRom s s.interruptReturn :=
  (s.pop16_keepsRom.trans ((State.pop16_keepsRom _).trans (State.pop16_keepsRom _))).congr rfl rfl

theorem State.divideError_keepsRom (s : State) (w : Width) : KeepsRom s (s.divideError w) := by
  obtain ⟨ax, dx, f, d, h, -⟩ := State.divideError_form s w
  rw [h]
  exact State.interrupt_keepsRom { s with AX := ax, DX := dx, flags := f, draws := d } 0x00#8 s.IP

/-! ## The shared forms of the instructions -/

theorem State.aluLoc_keepsRom (s : State) (op : AluOp) (w : Width) (l : Loc) (b : BitVec w.bits) :
    KeepsRom s (s.aluLoc op w l b) := by
  unfold State.aluLoc
  simp only []
  split
  · exact KeepsRom.trans (s.readLoc_keepsRom w l) (State.writeLoc_keepsRom (State.aluFlags _ op _ b) w l _)
  · exact s.readLoc_keepsRom w l

theorem State.aluRmReg_keepsRom (s : State) (op : AluOp) (d : Dir) (w : Width) (rm : RM) (reg : RegNum) :
    KeepsRom s (s.aluRmReg op d w rm reg) := by
  cases d with
  | fromReg => exact s.aluLoc_keepsRom op w _ _
  | toReg => exact (s.readLoc_keepsRom w _).trans (State.aluLoc_keepsRom _ op w _ _)

/-- An operand read, changed and written back under new flags (R207, R217, R219, R261). -/
theorem State.rewritten_keepsRom (s : State) (w : Width) (l : Loc) (f : Flags) (v : BitVec w.bits) :
    KeepsRom s ({ (s.readLoc w l).2 with flags := f }.writeLoc w l v) :=
  KeepsRom.trans (s.readLoc_keepsRom w l) (State.writeLoc_keepsRom { (s.readLoc w l).2 with flags := f } w l v)

theorem State.rewriteLoc_keepsRom (s : State) (w : Width) (l : Loc) (v : BitVec w.bits) :
    KeepsRom s (s.rewriteLoc w l v) := by
  cases l with
  | reg n => exact .refl s
  | mem sr seg off =>
    unfold State.rewriteLoc
    simp only []
    split
    · exact ⟨rfl, (State.memWrite_keepsRom { s with draws := s.draws + 1 } sr seg off w v).2⟩
    · exact .of_mem rfl rfl

theorem State.shiftRm_keepsRom (s : State) (op : ShiftOp) (v : Count) (w : Width) (rm : RM) :
    KeepsRom s (s.shiftRm op v w rm) := by
  unfold State.shiftRm
  simp only []
  split
  · exact (s.readLoc_keepsRom w _).trans (State.rewriteLoc_keepsRom _ w _ _)
  · exact KeepsRom.trans (s.readLoc_keepsRom w (s.loc rm))
      (State.writeLoc_keepsRom { (s.readLoc w (s.loc rm)).2 with flags := _, draws := _ } w _ _)

theorem State.jumpIf_keepsRom (s : State) (c : Bool) (disp : Byte) : KeepsRom s (s.jumpIf c disp) := by
  unfold State.jumpIf
  split <;> exact .of_mem rfl rfl

theorem State.movsOnce_keepsRom (s : State) (w : Width) : KeepsRom s (s.movsOnce w) :=
  ((s.memRead_keepsRom _ _ _ w).trans (State.memWrite_keepsRom (s.readSource w).2 .es _ _ w _)).congr rfl rfl

theorem State.cmpsOnce_keepsRom (s : State) (w : Width) : KeepsRom s (s.cmpsOnce w) :=
  ((s.memRead_keepsRom _ _ _ w).trans (State.memRead_keepsRom (s.readSource w).2 .es _ _ w)).congr rfl rfl

theorem State.scasOnce_keepsRom (s : State) (w : Width) : KeepsRom s (s.scasOnce w) :=
  (s.memRead_keepsRom .es s.ES s.DI w).congr rfl rfl

theorem State.lodsOnce_keepsRom (s : State) (w : Width) : KeepsRom s (s.lodsOnce w) :=
  ((s.memRead_keepsRom _ _ _ w).trans (State.setReg_keepsRom (s.readSource w).2 w _ _)).congr rfl rfl

theorem State.stosOnce_keepsRom (s : State) (w : Width) : KeepsRom s (s.stosOnce w) :=
  (s.memWrite_keepsRom .es s.ES s.DI w (s.acc w)).congr rfl rfl

/-- One iteration stores what the primitive stores (R302). -/
theorem State.iterate_keepsRom (s : State) (i : Instr) (c : Bool) {once : State → State}
    (h : KeepsRom s (once s)) : KeepsRom s (s.iterate i c once) := by
  unfold State.iterate
  split
  · exact h
  · split
    · exact .of_mem rfl rfl
    · exact h

theorem State.jumpNear_keepsRom (s : State) (ip : Word) : KeepsRom s (s.jumpNear ip) := .of_mem rfl rfl

theorem State.jumpFar_keepsRom (s : State) (cs ip : Word) : KeepsRom s (s.jumpFar cs ip) := .of_mem rfl rfl

theorem State.popFar_keepsRom (s : State) : KeepsRom s s.popFar :=
  s.pop16_keepsRom.trans ((State.pop16_keepsRom _).trans (State.jumpFar_keepsRom _ _ _))

/-! ## The instructions -/

/-- No instruction changes a parameter or a byte that is not RAM (R6, R79). -/
theorem exec_keepsRom {i : Instr} {s t : State} (h : exec i s = .next t) : KeepsRom s t := by
  cases i with
  | movRmReg d w rm reg =>
    cases h
    cases d with
    | fromReg => exact s.writeLoc_keepsRom w _ _
    | toReg => exact (s.readLoc_keepsRom w _).trans (State.setReg_keepsRom _ w reg _)
  | movRmImm rm imm => cases h; exact s.writeLoc_keepsRom _ _ _
  | movRmSreg rm sr => cases h; exact s.writeLoc_keepsRom _ _ _
  | movRegImm reg imm => cases h; exact s.setReg_keepsRom _ reg _
  | movAccMem w addr => cases h; exact (s.memRead_keepsRom _ _ _ w).trans (State.setReg_keepsRom _ w _ _)
  | movMemAcc w addr => cases h; exact s.memWrite_keepsRom _ _ _ w _
  | movSregRm sr rm =>
    cases h
    exact ((s.readLoc_keepsRom .word _).trans (State.setDataSReg_keepsRom _ sr _)).congr rfl rfl
  | pushRm rm =>
    cases h
    cases rm with
    | reg n => exact s.pushOf_keepsRom _
    | mem m => exact (s.readLoc_keepsRom .word _).trans (State.push16_keepsRom _ _)
  | pushReg r => cases h; exact s.pushOf_keepsRom _
  | pushSreg sr => cases h; exact s.push16_keepsRom _
  | pushf => cases h; exact s.push16_keepsRom _
  | popRm rm => cases h; exact s.pop16_keepsRom.trans (State.writeLoc_keepsRom _ .word _ _)
  | popReg r => cases h; exact s.pop16_keepsRom.trans (State.setReg16_keepsRom _ r _)
  | popSreg sr => cases h; exact (s.pop16_keepsRom.trans (State.setDataSReg_keepsRom _ sr _)).congr rfl rfl
  | popf => cases h; exact s.pop16_keepsRom.congr rfl rfl
  | xchgRmReg w rm reg =>
    cases h
    exact (s.readLoc_keepsRom w _).trans ((State.writeLoc_keepsRom _ w _ _).trans (State.setReg_keepsRom _ w reg _))
  | xchgAccReg r => cases h; exact (s.setReg16_keepsRom .ax _).trans (State.setReg16_keepsRom _ r _)
  | inFixed w port => cases h; exact (s.ioRead_keepsRom _ w).trans (State.setReg_keepsRom _ w _ _)
  | inVar w => cases h; exact (s.ioRead_keepsRom _ w).trans (State.setReg_keepsRom _ w _ _)
  | outFixed w port => cases h; exact s.ioWrite_keepsRom _ w _
  | outVar w => cases h; exact s.ioWrite_keepsRom _ w _
  | xlat => cases h; exact (s.memRead_keepsRom _ _ _ .byte).trans (State.setReg8_keepsRom _ .al _)
  | lea r m => cases h; exact s.setReg16_keepsRom r _
  | lds r m | les r m =>
    cases h
    exact (s.readPointer_keepsRom m).trans ((State.setReg16_keepsRom _ r _).trans (State.setDataSReg_keepsRom _ _ _))
  | addRmReg d w rm reg | adcRmReg d w rm reg | subRmReg d w rm reg | sbbRmReg d w rm reg | cmpRmReg d w rm reg
  | andRmReg d w rm reg | orRmReg d w rm reg | xorRmReg d w rm reg => cases h; exact s.aluRmReg_keepsRom _ d w rm reg
  | addRmImm rm imm | adcRmImm rm imm | subRmImm rm imm | sbbRmImm rm imm | cmpRmImm rm imm | andRmImm rm imm
  | orRmImm rm imm | xorRmImm rm imm | testRmImm rm imm => cases h; exact s.aluLoc_keepsRom _ _ _ _
  | addAccImm imm | adcAccImm imm | subAccImm imm | sbbAccImm imm | cmpAccImm imm | andAccImm imm | orAccImm imm
  | xorAccImm imm | testAccImm imm => cases h; exact s.aluLoc_keepsRom _ _ _ _
  | testRmReg w rm reg => cases h; exact s.aluLoc_keepsRom _ w _ _
  | incRm w rm | decRm w rm | negRm w rm => cases h; exact s.rewritten_keepsRom w _ _ _
  | notRm w rm => cases h; exact (s.readLoc_keepsRom w _).trans (State.writeLoc_keepsRom _ w _ _)
  | incReg r | decReg r => cases h; exact State.setReg16_keepsRom { s with flags := _ } r _
  | lahf => cases h; exact s.setReg8_keepsRom .ah _
  | sahf | aaa | aas | daa | das | aam | aad | cbw | cwd => cases h; exact .of_mem rfl rfl
  | mulRm w rm | imulRm w rm =>
    cases h
    cases w with
    | byte => exact (s.readLoc_keepsRom .byte _).congr rfl rfl
    | word => exact (s.readLoc_keepsRom .word _).congr rfl rfl
  | divRm w rm | idivRm w rm =>
    cases h
    cases w with
    | byte =>
      simp only []
      split
      · exact (s.readLoc_keepsRom .byte _).trans (State.divideError_keepsRom _ _)
      · exact (s.readLoc_keepsRom .byte _).congr rfl rfl
    | word =>
      simp only []
      split
      · exact (s.readLoc_keepsRom .word _).trans (State.divideError_keepsRom _ _)
      · exact (s.readLoc_keepsRom .word _).congr rfl rfl
  | shl v w rm | shr v w rm | sar v w rm | rol v w rm | ror v w rm | rcl v w rm | rcr v w rm =>
    cases h; exact s.shiftRm_keepsRom _ v w rm
  | movs w => cases h; exact s.iterate_keepsRom _ _ (s.movsOnce_keepsRom w)
  | cmps w => cases h; exact s.iterate_keepsRom _ _ (s.cmpsOnce_keepsRom w)
  | scas w => cases h; exact s.iterate_keepsRom _ _ (s.scasOnce_keepsRom w)
  | lods w => cases h; exact s.iterate_keepsRom _ _ (s.lodsOnce_keepsRom w)
  | stos w => cases h; exact s.iterate_keepsRom _ _ (s.stosOnce_keepsRom w)
  | callNear disp => cases h; exact (s.push16_keepsRom _).trans (State.jumpNear_keepsRom _ _)
  | callRm rm =>
    cases h
    exact (s.readLoc_keepsRom .word _).trans ((State.push16_keepsRom _ _).trans (State.jumpNear_keepsRom _ _))
  | callFar off seg =>
    cases h
    exact (s.push16_keepsRom _).trans ((State.push16_keepsRom _ _).trans (State.jumpFar_keepsRom _ _ _))
  | callMemFar m =>
    cases h
    exact (s.readPointer_keepsRom m).trans ((State.push16_keepsRom _ _).trans
      ((State.push16_keepsRom _ _).trans (State.jumpFar_keepsRom _ _ _)))
  | jmpNear disp | jmpShort disp | jmpFar off seg => cases h; exact .of_mem rfl rfl
  | jmpRm rm => cases h; exact (s.readLoc_keepsRom .word _).trans (State.jumpNear_keepsRom _ _)
  | jmpMemFar m => cases h; exact (s.readPointer_keepsRom m).trans (State.jumpFar_keepsRom _ _ _)
  | ret | retImm n => cases h; exact s.pop16_keepsRom.congr rfl rfl
  | retf | retfImm n => cases h; exact s.popFar_keepsRom.congr rfl rfl
  | jo disp | jno disp | jb disp | jnb disp | je disp | jne disp | jbe disp | jnbe disp | js disp | jns disp | jp disp
  | jnp disp | jl disp | jnl disp | jle disp | jnle disp | jcxz disp => cases h; exact s.jumpIf_keepsRom _ disp
  | loop disp | loopz disp | loopnz disp => cases h; exact s.countDown.jumpIf_keepsRom _ disp
  | intN t | int3 => cases h; exact s.interrupt_keepsRom _ _
  | into =>
    cases h
    split
    · exact s.interrupt_keepsRom _ _
    · exact .refl s
  | iret => cases h; exact s.interruptReturn_keepsRom
  | clc | cmc | stc | cld | std | cli | sti | hlt | wait | rep z | lock | segment sr => cases h; exact .of_mem rfl rfl
  | esc x1 x2 rm =>
    cases h
    cases rm with
    | reg n => exact .refl s
    | mem m => exact s.memRead_keepsRom _ _ _ .word

/-! ## One instruction with its prefixes -/

theorem State.complete_keepsRom {s t : State} {i : Instr} (h : s.complete i = .next t) : KeepsRom s t := by
  obtain ⟨u, hu⟩ := exec_completes i s.unshadowed
  have hk : KeepsRom s u := (KeepsRom.of_mem (t := s.unshadowed) rfl rfl).trans (exec_keepsRom hu)
  rw [State.complete_eq hu] at h
  cases h
  split
  · exact hk.congr rfl rfl
  · exact hk

theorem State.fetchOne_keepsRom (s : State) : KeepsRom s s.fetchOne.2 := by
  have ha : KeepsRom s (if s.queue.isEmpty then s.arbitrate .free else s) := by
    split
    · exact s.arbitrate_keepsRom .free
    · exact .refl s
  unfold State.fetchOne
  simp only []
  split
  · exact ha.congr rfl rfl
  · exact ha.congr rfl rfl

theorem State.fetched_keepsRom (s : State) (n : Nat) : KeepsRom s (s.fetched n) := by
  unfold State.fetched
  induction n generalizing s with
  | zero => exact .refl s
  | succ n ih => exact s.fetchOne_keepsRom.trans (ih _)

theorem State.acknowledge_keepsRom (s : State) (t : Byte) : KeepsRom s (s.acknowledge t) :=
  have hlog : ∀ (s : State) c, KeepsRom s (s.logCycle c) := fun _ _ => .of_mem rfl rfl
  (((s.gap_keepsRom .free).trans (hlog _ _)).trans (State.gap_keepsRom _ .acknowledge)).trans (hlog _ _)

theorem State.externalAt_keepsRom {s u : State} {l : Option InterruptPins} {t : Byte}
    (h : s.externalAt l = some (t, u)) : KeepsRom s u := by
  unfold State.externalAt at h
  split at h
  · cases h
    exact .of_mem rfl rfl
  · split at h
    · split at h
      · cases h
        exact State.acknowledge_keepsRom { s with lock := false } _
      · cases h
    · cases h

theorem State.takeInterrupt_keepsRom (s : State) (t : Byte) : KeepsRom s (s.takeInterrupt t) := by
  have hlock : KeepsRom s { s with lock := false } := .of_mem rfl rfl
  have htaken := hlock.trans (State.interrupt_keepsRom _ t s.savedIP)
  unfold State.takeInterrupt
  generalize State.interrupt _ _ _ = w at htaken ⊢
  exact htaken.congr rfl rfl

theorem State.firstPoint_keepsRom {s u : State} {i : Instr} {t : Byte} (h : s.firstPoint i = some (t, u)) :
    KeepsRom s u := by
  unfold State.firstPoint at h
  split at h
  · cases h
  · exact State.externalAt_keepsRom (s := { s.latchInside with repeating := some i }) h

theorem State.start_keepsRom {s t : State} {i : Instr} (h : s.start i = .next t) : KeepsRom s t := by
  unfold State.start at h
  split at h
  · exact State.complete_keepsRom h
  · split at h
    · split at h
      · exact State.complete_keepsRom h
      · split at h
        · rename_i ty u hp
          have htaken := (State.firstPoint_keepsRom hp).trans (u.takeInterrupt_keepsRom ty)
          generalize u.takeInterrupt ty = w at h htaken
          cases h
          exact htaken.congr rfl rfl
        · exact State.complete_keepsRom h
    · cases h

theorem State.runFrom_keepsRom {n : Nat} {s t : State} (h : State.runFrom n s = .next t) : KeepsRom s t := by
  induction n generalizing s with
  | zero =>
    cases h
    exact .refl _
  | succ n ih =>
    cases hd : decode s.codeBytes with
    | error e =>
      rw [State.runFrom_undecodable hd] at h
      cases h
    | ok p =>
      obtain ⟨i, rest⟩ := p
      have hf := s.fetched_keepsRom (6 - rest.length)
      cases hi : isPrefixInstr i with
      | true =>
        obtain ⟨u, hu⟩ := exec_completes i (s.fetched (6 - rest.length))
        rw [State.runFrom_prefix hd hi hu] at h
        exact hf.trans ((exec_keepsRom hu).trans (ih h))
      | false =>
        rw [State.runFrom_start hd hi] at h
        exact hf.trans (State.start_keepsRom h)

/-! ## The step -/

theorem State.recognised_keepsRom {s u : State} {t : Byte} (h : s.recognised = some (t, u)) : KeepsRom s u := by
  have htrap : s.trap = some (t, u) → KeepsRom s u := fun h => by
    unfold State.trap at h
    split at h
    · cases h
      exact .of_mem rfl rfl
    · cases h
  unfold State.recognised at h
  split at h
  · cases h
  · split at h
    · exact (Option.or_eq_some_iff.mp h).elim htrap fun h => State.externalAt_keepsRom h.2
    · exact (Option.or_eq_some_iff.mp h).elim State.externalAt_keepsRom fun h => htrap h.2

theorem State.beginInstr_keepsRom (s : State) : KeepsRom s s.beginInstr := .of_mem rfl rfl

theorem State.waitAgain_keepsRom {s t : State} (h : s.waitAgain = .next t) : KeepsRom s t := by
  unfold State.waitAgain at h
  have hbegin : KeepsRom s { s with IP := s.IP + 1#16 }.beginInstr := .of_mem rfl rfl
  exact hbegin.trans (State.complete_keepsRom h)

theorem State.boundary_keepsRom {s t : State} (h : s.boundary = .next t) : KeepsRom s t := by
  unfold State.boundary at h
  split at h
  · exact State.runFrom_keepsRom h
  · split at h
    · exact s.beginInstr_keepsRom.trans (State.runFrom_keepsRom h)
    · split at h
      · rename_i ty u hu
        cases h
        exact (State.recognised_keepsRom hu).trans (u.takeInterrupt_keepsRom ty)
      · split at h
        · cases h
          exact .refl s
        · split at h
          · exact State.waitAgain_keepsRom h
          · split at h
            · exact State.complete_keepsRom h
            · exact s.beginInstr_keepsRom.trans (State.runFrom_keepsRom h)

theorem State.samplePins_keepsRom (s : State) : KeepsRom s s.samplePins := by
  unfold State.samplePins
  split <;> exact .of_mem rfl rfl

theorem State.reclaimBus_keepsRom (s : State) : KeepsRom s s.reclaimBus := by
  obtain ⟨_, _, _, _, h⟩ := s.reclaimBus_form
  rw [h]
  exact .of_mem rfl rfl

theorem State.masterWrites_keepsRom (s : State) (ws : List (PAddr × Byte)) : KeepsRom s (s.masterWrites ws) := by
  unfold State.masterWrites
  split
  · induction ws generalizing s with
    | nil => exact .refl s
    | cons w ws ih => exact (s.storeByte_keepsRom w.1 w.2).trans (ih _ ‹_›)
  · exact .refl s

theorem State.grantBus_keepsRom {s t : State} (h : s.grantBus = some t) : KeepsRom s t := by
  unfold State.grantBus at h
  split at h
  · cases h
  · split at h
    · cases h
    · cases h
      refine KeepsRom.trans ?_ (State.masterWrites_keepsRom _ _)
      split
      · exact s.reclaimBus_keepsRom
      · exact .refl s

theorem State.finish_keepsRom (s t : State) : KeepsRom t (s.finish t) := by
  unfold State.finish
  simp only []
  split <;> exact .of_mem rfl rfl

theorem step_keepsRom {s t : State} (h : step s = .next t) : KeepsRom s t := by
  unfold step State.advance at h
  simp only [] at h
  refine s.samplePins_keepsRom.trans ?_
  split at h
  · cases h
    exact .of_mem rfl rfl
  · split at h
    · cases h
      exact .refl _
    · split at h
      · cases h
        exact State.grantBus_keepsRom (s := { s.samplePins with stalled := false }) ‹_›
      · split at h
        · rename_i u hu
          cases h
          exact (State.reclaimBus_keepsRom { s.samplePins with stalled := false }).trans
            ((State.boundary_keepsRom hu).trans (State.finish_keepsRom _ u))
        · cases h
        · cases h

/-- Settles O11: a step leaves the parameters and every byte that is not RAM. -/
theorem stepKeepsParamsAndRom : Obligations.StepKeepsParamsAndRom := fun _ _ h => step_keepsRom h

end Sys2Proof.Machine
end

section
/-! PROOFS. The decoder reads back what the encoder writes (30_encoding.md R100 to R121): first the shapes of operands,
then every instruction. -/

namespace Sys2Proof

/-! ## The parts of an encoding -/

@[simp] theorem takeByte_cons (b : Byte) (r : List Byte) : takeByte (b :: r) = .ok (b, r) := rfl

@[simp] theorem parseThen_ok {α β : Type} (a : α) (r : List Byte) (f : α → List Byte → Parse β) :
    parseThen (.ok (a, r)) f = f a r := rfl

@[simp] theorem parseMap_ok {α β : Type} (f : α → β) (a : α) (r : List Byte) :
    parseMap f (.ok (a, r)) = .ok (f a, r) := rfl

@[simp] theorem withByte_cons (mk : Byte → Instr) (b : Byte) (r : List Byte) :
    withByte mk (b :: r) = .ok (mk b, r) := rfl

@[simp] theorem withWord_bytesOfWord (mk : Word → Instr) (v : Word) (r : List Byte) :
    withWord mk (bytesOfWord v ++ r) = .ok (mk v, r) := by
  simp [withWord]

@[simp] theorem withFar_bytesOfWord (mk : Word → Word → Instr) (off seg : Word) (r : List Byte) :
    withFar mk (bytesOfWord off ++ (bytesOfWord seg ++ r)) = .ok (mk off seg, r) := by
  simp [withFar]

@[simp] theorem withImm_encodeImm (mk : Imm → Instr) (imm : Imm) (r : List Byte) :
    withImm imm.width mk (encodeImm imm ++ r) = .ok (mk imm, r) := by
  simp [withImm]

/-- Format F-M is read back (R102). -/
theorem withRegRM_encodeRM (mk : RM → RegNum → Instr) {rm : RM} (h : rm.wf = true) (reg : RegNum) (r : List Byte) :
    withRegRM mk (encodeRM reg.toBits3 rm ++ r) = .ok (mk rm reg, r) := by
  obtain ⟨second, tl, he, hrm, hf⟩ := takeRM_encodeRM rm h reg.toBits3 r
  simp [withRegRM, he, hrm, hf]

/-- Format F-M with a memory operand is read back (R132). -/
theorem withRegMem_encodeMem (op : Byte) (mk : Reg16 → MemOp → Instr) {m : MemOp} (h : m.wf = true) (reg : Reg16)
    (r : List Byte) : withRegMem op mk (encodeMem reg.toBits3 m ++ r) = .ok (mk reg m, r) := by
  obtain ⟨second, tl, he, hrm, hf⟩ := takeRM_encodeRM (.mem m) h reg.toBits3 r
  simp only [encodeRM] at he
  simp [withRegMem, he, hrm, hf]

/-- An immediate of 100000sw is read back after its operand (R115, R121). -/
theorem decodeGrp1_arith {rm : RM} (h : rm.wf = true) (imm : ImmSW) (mid : Bits3) (mk : RM → ImmSW → Instr)
    (r : List Byte)
    (hmk : ∀ op s w second bs, regField second = mid →
      decodeGrp1 op s w (second :: bs) = grp1Arith s w second mk bs) :
    decode (opcodeOfImmSW imm :: (encodeRM mid rm ++ (encodeImmSW imm ++ r))) = .ok (mk rm imm, r) := by
  obtain ⟨second, tl, he, hrm, hf⟩ := takeRM_encodeRM rm h mid (encodeImmSW imm ++ r)
  rw [he]
  cases imm <;>
    simp [opcodeOfImmSW, decode, decodeOpcode, decodeRow8, hmk _ _ _ _ _ hf, grp1Arith, hrm, takeImmSW, encodeImmSW]

/-- AND, OR and XOR with an immediate are read back under 80H and 81H (R115, R121). -/
theorem grp1Logic_encodeImm (op second : Byte) {tl : List Byte} {rm : RM} {imm : Imm} {r : List Byte}
    (hrm : takeRM second tl = .ok (rm, encodeImm imm ++ r)) (mk : RM → Imm → Instr) :
    grp1Logic op .O (bitOfWidth imm.width) second mk tl = .ok (mk rm imm, r) := by
  simp [grp1Logic, hrm]

theorem bits3Of_inj {a b c d e f : Bit} (h : bits3Of a b c = bits3Of d e f) : a = d ∧ b = e ∧ c = f := by
  have h := congrArg Bits3.toBits h
  simpa using h

@[simp] theorem sregOf_toBits (sr : SReg) : sregOf sr.toBits.1 sr.toBits.2 = sr := by cases sr <;> rfl

/-- The middle field of format F-MS is a zero and the segment register (R102). -/
theorem bits_of_midOfSReg {second : Byte} {sr : SReg} (h : regField second = midOfSReg sr) :
    bitOf second 5 = .O ∧ bitOf second 4 = sr.toBits.1 ∧ bitOf second 3 = sr.toBits.2 := bits3Of_inj h

/-! ## The round trip -/

/-- A well-formed instruction is read back from its bytes, whatever follows (R100 to R121). -/
theorem decode_encode {i : Instr} (h : i.wf = true) (rest : List Byte) :
    decode (encode i ++ rest) = .ok (i, rest) := by
  cases i with
  | addRmReg d w rm reg | orRmReg d w rm reg | adcRmReg d w rm reg | sbbRmReg d w rm reg | andRmReg d w rm reg
  | subRmReg d w rm reg | xorRmReg d w rm reg | cmpRmReg d w rm reg | movRmReg d w rm reg =>
    simp [encode, decode, decodeOpcode, decodeRow0, decodeRow1, decodeRow2, decodeRow3, decodeRow8,
      withRegRM_encodeRM _ (rm := rm) h]
  | testRmReg w rm reg | xchgRmReg w rm reg =>
    simp [encode, decode, decodeOpcode, decodeRow8, withRegRM_encodeRM _ (rm := rm) h]
  | addAccImm imm | orAccImm imm | adcAccImm imm | sbbAccImm imm | andAccImm imm | subAccImm imm | xorAccImm imm
  | cmpAccImm imm | testAccImm imm =>
    simp [encode, decode, decodeOpcode, decodeRow0, decodeRow1, decodeRow2, decodeRow3, decodeRowA]
  | movRegImm reg imm => simp [encode, opcodeReg, decode, decodeOpcode, decodeRowB]
  | lea r m | lds r m | les r m =>
    simp [encode, decode, decodeOpcode, decodeRow8, decodeRowC, withRegMem_encodeMem _ _ (m := m) h]
  | addRmImm rm imm | adcRmImm rm imm | sbbRmImm rm imm | subRmImm rm imm | cmpRmImm rm imm =>
    simp only [encode, List.cons_append, List.append_assoc]
    exact decodeGrp1_arith h imm _ _ rest fun op s w second bs hf => by simp [decodeGrp1, hf]
  | orRmImm rm imm | andRmImm rm imm | xorRmImm rm imm =>
    simp only [encode, List.cons_append, List.append_assoc]
    obtain ⟨second, tl, he, hrm, hf⟩ := takeRM_encodeRM rm h _ (encodeImm imm ++ rest)
    rw [he]
    simp [decode, decodeOpcode, decodeRow8, decodeGrp1, hf, grp1Logic_encodeImm _ _ hrm]
  | testRmImm rm imm | movRmImm rm imm =>
    simp only [encode, List.cons_append, List.append_assoc]
    obtain ⟨second, tl, he, hrm, hf⟩ := takeRM_encodeRM rm h _ (encodeImm imm ++ rest)
    rw [he]
    simp [decode, decodeOpcode, decodeRowC, decodeRowF, decodeGrp3, decodeMovRmImm, decodeExt0, hf, hrm]
  | rol v w rm | ror v w rm | rcl v w rm | rcr v w rm | shl v w rm | shr v w rm | sar v w rm =>
    simp only [encode, List.cons_append]
    obtain ⟨second, tl, he, hrm, hf⟩ := takeRM_encodeRM rm h _ rest
    rw [he]
    simp [decode, decodeOpcode, decodeRowD, decodeGrp2, withOperand, hf, hrm]
  | notRm w rm | negRm w rm | mulRm w rm | imulRm w rm | divRm w rm | idivRm w rm =>
    simp only [encode, List.cons_append]
    obtain ⟨second, tl, he, hrm, hf⟩ := takeRM_encodeRM rm h _ rest
    rw [he]
    simp [decode, decodeOpcode, decodeRowF, decodeGrp3, withOperand, hf, hrm]
  | incRm w rm | decRm w rm =>
    simp only [encode, List.cons_append]
    obtain ⟨second, tl, he, hrm, hf⟩ := takeRM_encodeRM rm h _ rest
    rw [he]
    cases w <;> simp [bitOfWidth, decode, decodeOpcode, decodeRowF, decodeGrp4, decodeGrp5, withOperand, hf, hrm]
  | pushRm rm | callRm rm | jmpRm rm | popRm rm =>
    simp only [encode, List.cons_append]
    obtain ⟨second, tl, he, hrm, hf⟩ := takeRM_encodeRM rm h _ rest
    rw [he]
    simp [decode, decodeOpcode, decodeRow8, decodeRowF, decodeGrp5, decodePopRm, decodeExt0, withOperand, hf, hrm]
  | callMemFar m | jmpMemFar m =>
    simp only [encode, List.cons_append]
    obtain ⟨second, tl, he, hrm, hf⟩ := takeRM_encodeRM (.mem m) h _ rest
    simp only [encodeRM] at he
    rw [he]
    simp [decode, decodeOpcode, decodeRowF, decodeGrp5, withPointer, hf, hrm]
  | movRmSreg rm sr =>
    simp only [encode, List.cons_append]
    obtain ⟨second, tl, he, hrm, hf⟩ := takeRM_encodeRM rm h (midOfSReg sr) rest
    obtain ⟨h5, h4, h3⟩ := bits_of_midOfSReg hf
    rw [he]
    simp [decode, decodeOpcode, decodeRow8, decodeMovRmSreg, h5, h4, h3, hrm]
  | movSregRm sr rm =>
    simp only [encode, List.cons_append]
    obtain ⟨second, tl, he, hrm, hf⟩ := takeRM_encodeRM rm h (midOfSReg sr.toSReg) rest
    obtain ⟨h5, h4, h3⟩ := bits_of_midOfSReg hf
    rw [he]
    cases sr <;>
      simp [decode, decodeOpcode, decodeRow8, decodeMovSregRm, h5, h4, h3, DataSReg.toSReg, withOperand, hrm]
  | esc x1 x2 rm =>
    simp only [encode, List.cons_append]
    obtain ⟨second, tl, he, hrm, hf⟩ := takeRM_encodeRM rm h x2 rest
    rw [he]
    simp [decode, decodeOpcode, decodeRowD, decodeEsc, hf, hrm]
  | pushSreg sr | segment sr =>
    cases sr <;>
      simp [encode, SReg.toBits, decode, decodeOpcode, decodeRow0, decodeRow1, decodeRow2, decodeRow3, plain]
  | popSreg sr =>
    cases sr <;> simp [encode, DataSReg.toSReg, SReg.toBits, decode, decodeOpcode, decodeRow0, decodeRow1, plain]
  | incReg r | decReg r | pushReg r | popReg r | xchgAccReg r =>
    simp [encode, opcodeReg, decode, decodeOpcode, decodeRow4, decodeRow5, decodeRow9, plain]
  | jo disp | jno disp | jb disp | jnb disp | je disp | jne disp | jbe disp | jnbe disp | js disp | jns disp | jp disp
  | jnp disp | jl disp | jnl disp | jle disp | jnle disp => simp [encode, decode, decodeOpcode, decodeRow7]
  | loop disp | loopz disp | loopnz disp | jcxz disp | jmpShort disp | inFixed w disp | outFixed w disp =>
    simp [encode, decode, decodeOpcode, decodeRowE]
  | intN t | retImm n | retfImm n => simp [encode, decode, decodeOpcode, decodeRowC]
  | callNear disp | jmpNear disp | jmpFar off seg | callFar off seg =>
    simp [encode, decode, decodeOpcode, decodeRow9, decodeRowE]
  | movAccMem w addr | movMemAcc w addr => simp [encode, decode, decodeOpcode, decodeRowA]
  | movs w | cmps w | scas w | lods w | stos w | inVar w | outVar w =>
    simp [encode, decode, decodeOpcode, decodeRowA, decodeRowE, plain]
  | daa | das | aaa | aas => simp [encode, decode, decodeOpcode, decodeRow2, decodeRow3, plain]
  | cbw | cwd | wait | pushf | popf | sahf | lahf => simp [encode, decode, decodeOpcode, decodeRow9, plain]
  | ret | retf | int3 | into | iret => simp [encode, decode, decodeOpcode, decodeRowC, plain]
  | aam | aad =>
    have hbase : byteOf .O .O .O .O .I .O .I .O = 0x0A#8 := by decide
    simp [encode, decode, decodeOpcode, decodeRowD, decodeAdjust, hbase]
  | xlat => simp [encode, decode, decodeOpcode, decodeRowD, plain]
  | rep z => simp [encode, decode, decodeOpcode, decodeRowF, plain]
  | lock | hlt | cmc | clc | stc | cli | sti | cld | std => simp [encode, decode, decodeOpcode, decodeRowF, plain]

end Sys2Proof
end

section
/-! PROOFS. An instruction placed at CS:IP is what the next step runs (O7): the bytes placed are the bytes fetched, and
they decode to the instruction. -/

namespace Sys2Proof.Machine

/-! ## Bytes placed in a segment -/

/-- Two offsets of one segment share no physical address (R61). -/
theorem phys_inj {seg a b : Word} (h : phys seg a = phys seg b) : a = b := by
  have h := congrArg BitVec.toNat h
  simp only [phys, BitVec.toNat_ofNat] at h
  apply BitVec.eq_of_toNat_eq
  have := seg.isLt
  have := a.isLt
  have := b.isLt
  omega

/-- Bytes placed elsewhere in the segment leave a byte alone. -/
theorem Memory.read_place_other (bs : List Byte) (m : List Host.Cell) (cs ip off : Word)
    (h : ∀ k < bs.length, off ≠ ip + BitVec.ofNat 16 k) :
    Memory.read (Memory.place m cs ip bs) (phys cs off).toNat = Memory.read m (phys cs off).toNat := by
  induction bs generalizing m ip with
  | nil => rfl
  | cons b bs ih =>
    have hhead : off ≠ ip := by simpa using h 0 (by simp)
    have htail : ∀ k < bs.length, off ≠ ip + 1#16 + BitVec.ofNat 16 k := fun k hk => by
      have := h (k + 1) (by simpa using hk)
      rwa [Nat.add_comm k 1, BitVec.ofNat_add, ← BitVec.add_assoc] at this
    rw [Memory.place, ih _ _ htail, Memory.read_write_other]
    exact fun he => hhead (phys_inj (BitVec.eq_of_toNat_eq he)).symm

/-- The k-th byte placed is read back from the k-th offset, where the bytes do not go round the segment (R24). -/
theorem Memory.read_place (bs : List Byte) (m : List Host.Cell) (cs ip : Word) (hl : bs.length ≤ 65536) (k : Nat)
    (hk : k < bs.length) :
    Memory.read (Memory.place m cs ip bs) (phys cs (ip + BitVec.ofNat 16 k)).toNat = bs[k] := by
  induction bs generalizing m ip k with
  | nil => exact absurd hk (Nat.not_lt_zero k)
  | cons b bs ih =>
    rw [List.length_cons] at hl hk
    cases k with
    | zero =>
      have happart : ∀ j < bs.length, ip ≠ ip + 1#16 + BitVec.ofNat 16 j := fun j hj => by bv_omega
      rw [BitVec.add_zero, Memory.place, Memory.read_place_other _ _ _ _ _ happart, Memory.read_write_same]
      rfl
    | succ k =>
      have := ih (Memory.write m (phys cs ip).toNat b) (ip + 1#16) (by omega) k (by omega)
      rwa [BitVec.add_assoc, ← BitVec.ofNat_add, Nat.add_comm 1 k] at this

/-! ## Fetching with nothing in the queue and nobody else on the bus -/

/-- A byte fetched from memory where the queue is empty and nobody asks for the bus: it is the byte at CS:IP, and the
fetch changes IP, the trace, the devices' answers and the draw counter alone (R70). -/
theorem State.fetchOne_quiet {s : State} (hq : s.queue = []) (hr : s.requests = []) (hg : s.gaps = [])
    (hm : s.Remembers (phys s.CS s.IP)) :
    s.fetchOne.1 = s.byteAt (phys s.CS s.IP)
      ∧ ∃ b d n, s.fetchOne.2 = { s with IP := s.IP + 1#16, bus := b, devIn := d, draws := n } := by
  have ht : (if s.queue.isEmpty then s.arbitrate .free else s) = s := by
    rw [State.arbitrate_quiet s .free hr hg, ite_self]
  unfold State.fetchOne
  simp only [ht]
  split
  · rename_i he
    rw [hq] at he
    cases he
  · exact ⟨State.physByte_remembers hm, _, _, _, rfl⟩

/-- Bytes that stand at CS:IP and up are the bytes fetched (R26, R70). -/
theorem State.fetchBytes_quiet (bs : List Byte) {s : State} (hq : s.queue = []) (hr : s.requests = [])
    (hg : s.gaps = []) (hm : ∀ k < bs.length, s.Remembers (s.codeAddr k))
    (hb : ∀ k (hk : k < bs.length), s.byteAt (s.codeAddr k) = bs[k]) : State.fetchBytes bs.length s = bs := by
  induction bs generalizing s with
  | nil => rfl
  | cons c cs ih =>
    have haddr : s.codeAddr 0 = phys s.CS s.IP := by simp [State.codeAddr]
    obtain ⟨hfst, b, d, n, hsnd⟩ := State.fetchOne_quiet hq hr hg (haddr ▸ hm 0 (by simp))
    have hnext : ∀ k, s.fetchOne.2.codeAddr k = s.codeAddr (k + 1) := fun k => by
      rw [hsnd]
      simp only [State.codeAddr, BitVec.add_assoc, ← BitVec.ofNat_add, Nat.add_comm 1 k]
    have htail : State.fetchBytes cs.length s.fetchOne.2 = cs := by
      apply ih
      · rw [hsnd]; exact hq
      · rw [hsnd]; exact hr
      · rw [hsnd]; exact hg
      · intro k hk
        rw [hnext, hsnd]
        exact hm (k + 1) (by simpa using hk)
      · intro k hk
        rw [hnext, hsnd]
        exact hb (k + 1) (by simpa using hk)
    have hhead : s.fetchOne.1 = c := by
      rw [hfst, ← haddr]
      exact hb 0 (by simp)
    rw [List.length_cons, State.fetchBytes, hhead, htail]

/-! ## The step -/

/-- With bytes placed there is nothing between the chip and running them: nothing at the pins, no prefixes, nothing
recognised (log 19). -/
theorem State.place_begins (s : State) (bs : List Byte) : (s.place bs).Sampled (s.place bs) ∧ (s.place bs).Begins := by
  have hrec : (s.place bs).recorded = [] := by
    unfold State.recorded
    exact ite_self _
  refine ⟨⟨s.place bs, .inl ⟨rfl, by rw [hrec]; rfl⟩, .inl rfl, (State.reclaimBus_held rfl).symm⟩,
    rfl, rfl, rfl, ⟨rfl, rfl, rfl⟩, .inr (.inr ⟨rfl, rfl, ?_⟩)⟩
  rintro ⟨p, hp, -⟩
  cases hp

/-- The bytes placed at CS:IP, where memory answers, are the bytes the instruction is read from. -/
theorem State.codeBytes_place {s : State} {bs : List Byte} (hl : bs.length = 6)
    (hm : ∀ k < 6, s.Remembers (s.codeAddr k)) : (s.place bs).beginInstr.codeBytes = bs := by
  have hf := State.fetchBytes_quiet bs (s := (s.place bs).beginInstr) rfl rfl rfl (fun k hk => hm k (hl ▸ hk))
    fun k hk => Memory.read_place bs s.mem s.CS s.IP (by omega) k hk
  rw [hl] at hf
  exact hf

/-- Settles O7: an instruction placed at CS:IP is what the next step runs. -/
theorem stepRunsPlaced : Obligations.StepRunsPlaced := by
  intro s v i rest hwf hi hl hm hv
  have hv : v = (s.place (encode i ++ rest)).beginInstr := hv
  subst hv
  obtain ⟨hs, hb⟩ := s.place_begins (encode i ++ rest)
  have hd : decode (s.place (encode i ++ rest)).beginInstr.codeBytes = .ok (i, rest) := by
    rw [State.codeBytes_place hl hm, decode_encode hwf]
  have hn : 6 - rest.length = (encode i).length := by
    rw [← hl, List.length_append, Nat.add_sub_cancel]
  obtain ⟨t, ht⟩ := exec_completes i ((s.place (encode i ++ rest)).beginInstr.fetched (6 - rest.length)).unshadowed
  refine ⟨t, hn ▸ ht, ?_⟩
  rw [step_begins hs hb, State.runFrom_runs hd hi (.inl rfl) ht]
  rfl

end Sys2Proof.Machine
end

section
/-! PROOFS. The stack and the transfers through it: PUSH, POP, CALL, RET, and what comes back from the stack (O19, O20,
O43, O45, O50). -/

namespace Sys2Proof.Machine

/-! ## Effects after a reading -/

/-- What is pushed after a reading is pushed. -/
theorem Pushes.before {s u t : State} {vs : List Word} (h : Reading s u) (k : Pushes u t vs) : Pushes s t vs := by
  obtain ⟨hsp, hregs, hmem⟩ := k
  rw [h.SS, h.SP] at hmem
  exact ⟨by rw [hsp, h.SP], fun r hr => (hregs r hr).trans (h.sameRegs r), hmem.before h⟩

/-- An operand written after a reading is assigned (R117). -/
theorem State.writeLoc_assigns {s u : State} (h : Reading s u) (w : Width) (l : Loc) (v : BitVec w.bits) :
    Assigns s (u.writeLoc w l v) w l v := by
  obtain ⟨_, _, _, _, _, _, _, _, k⟩ := State.writeLoc_form u w l v
  exact ⟨(State.writeLoc_writes u w l v).before h, k.flags.trans h.flags, SameControl.before h k.sameControl⟩

/-- An assignment to a register sets the registers. -/
theorem Assigns.setsRegs {s t : State} {w : Width} {n : RegNum} {v : BitVec w.bits} (h : Assigns s t w (.reg n) v) :
    SetsRegs s t (s.setReg w n v) := by
  obtain ⟨⟨hregs, hmem⟩, hrest⟩ := h
  exact ⟨hregs, hmem, hrest⟩

/-- The word registers by their numbers (R21). -/
theorem State.setReg16_eq_setReg (s : State) (r : Reg16) (v : Word) :
    s.setReg16 r v = s.setReg .word (regNumber r) v := by
  cases r <;> rfl

/-- A write of one segment register leaves the others alone (R25). -/
theorem State.sreg_setDataSReg_other (s : State) (sr : DataSReg) (q : SReg) (v : Word) (h : q ≠ sr.toSReg) :
    (s.setDataSReg sr v).sreg q = s.sreg q := by
  cases sr <;> cases q <;> first | rfl | exact absurd rfl h

/-- Traffic leaves the segment registers. -/
theorem Traffic.sreg {s t : State} (h : Traffic s t) (q : SReg) : t.sreg q = s.sreg q := by
  rw [h.form]
  cases q <;> rfl

/-- A segment register loaded after a reading, with the full shadow set (R25, R437 a). -/
theorem State.setDataSReg_loads {s u : State} (h : Reading s u) (sr : DataSReg) (v : Word) :
    LoadsSegment s { u.setDataSReg sr v with fullShadow := true } sr.toSReg v
      ∧ SameRegs s { u.setDataSReg sr v with fullShadow := true }
      ∧ SameMemory s { u.setDataSReg sr v with fullShadow := true }
      ∧ { u.setDataSReg sr v with fullShadow := true }.flags = s.flags := by
  obtain ⟨-, -, -, ⟨hnmi, -, hsti, htrap⟩, hrest⟩ := h.toTraffic.sameControl
  have hother : ∀ q, q ≠ sr.toSReg → (u.setDataSReg sr v).sreg q = s.sreg q := fun q hq =>
    (u.sreg_setDataSReg_other sr q v hq).trans (h.sreg q)
  have hregs := h.sameRegs
  have hmem := h.same
  cases sr <;>
    exact ⟨⟨rfl, fun q hq => Eq.trans (by cases q <;> rfl) (hother q hq), h.IP, ⟨hnmi, rfl, hsti, htrap⟩, hrest⟩,
      hregs.trans fun r => by cases r <;> rfl, hmem, h.flags⟩

/-! ## PUSH -/

/-- A push changes SP and is otherwise traffic, so flags and control stay (R68). -/
theorem State.pushOf_control (s : State) (f : State → Word) :
    (s.pushOf f).flags = s.flags ∧ SameControl s (s.pushOf f) :=
  ⟨(s.pushOf_form f).flags, (s.pushOf_form f).sameControl⟩

/-- What PUSH of a register stores: the register as it is once SP is decremented (R159, D14). -/
theorem State.reg16_decremented (s : State) (r : Reg16) :
    { s with SP := s.SP - 2#16 }.reg16 r = if r = .sp then s.SP - 2#16 else s.reg16 r := by
  cases r <;> rfl

theorem RegNum.reg16_eq_sp (n : RegNum) : n.reg16 = .sp ↔ n = .spAh := by
  cases n <;> decide

/-- Settles O19: every PUSH stores its word at the new SS:SP; PUSH SP stores the new SP. -/
theorem pushResults : Obligations.PushResults := fun s => by
  refine ⟨fun r => ⟨_, rfl, ?_, s.pushOf_control _⟩, fun n => ⟨_, rfl, ?_, s.pushOf_control _⟩,
    fun m => ⟨_, _, State.memRead_reads s (s.segOf m) _ _ .word, rfl, ?_⟩,
    fun sr => ⟨_, rfl, s.push16_pushes _, s.pushOf_control _⟩, _, rfl, s.push16_pushes _, s.pushOf_control _⟩
  · rw [← State.reg16_decremented]
    exact s.pushOf_pushes _
  · have hv := s.reg16_decremented n.reg16
    simp only [RegNum.reg16_eq_sp] at hv
    have hpush := s.pushOf_pushes fun t => t.reg16 n.reg16
    rw [hv] at hpush
    exact hpush
  · have hread := State.readLoc_reading s .word (s.memLoc m)
    obtain ⟨hflags, hcontrol⟩ :=
      State.pushOf_control (s.readLoc .word (s.memLoc m)).2 fun _ => (s.readLoc .word (s.memLoc m)).1
    exact ⟨(State.push16_pushes _ _).before hread, hflags.trans hread.flags, hcontrol.before hread⟩

/-! ## POP -/

/-- A pop is a reading with SP moved on (R69). -/
theorem State.pop16_reading (s : State) : Reading { s with SP := s.SP + 2#16 } s.pop16.2 := by
  obtain ⟨t, ht, e⟩ := s.pop16_form
  rw [e]
  exact ht.withSP _

/-- Settles O20: every POP delivers the word at SS:SP to its destination, SP being moved on before that. -/
theorem popResults : Obligations.PopResults := fun s => by
  have h := s.pop16_reading
  refine ⟨fun r => ⟨_, _, s.pop16_reads, rfl, ?_⟩, fun rm => ⟨_, _, s.pop16_reads, rfl, ?_⟩,
    fun sr => ⟨_, _, s.pop16_reads, rfl, ?_⟩, _, _, s.pop16_reads, rfl, rfl, h.sameRegs, h.same,
    h.toTraffic.sameControl⟩
  · rw [State.setReg16_eq_setReg, State.setReg16_eq_setReg]
    exact (State.writeLoc_assigns h .word (.reg (regNumber r)) _).setsRegs
  · exact State.writeLoc_assigns h .word (s.loc rm) _
  · exact State.setDataSReg_loads h sr _

/-! ## CALL -/

/-- From `s` to `t` words were pushed, and the rest was traffic. -/
structure Pushed (s t : State) (vs : List Word) : Prop where
  pushes : Pushes s t vs
  traffic : Traffic { s with SP := t.SP } t

theorem Pushed.ofReading {s u : State} (h : Reading s u) : Pushed s u [] where
  pushes := ⟨by rw [h.SP]; simp, fun r _ => h.sameRegs r, h.same⟩
  traffic := by rw [h.SP]; exact h.toTraffic

/-- One more word pushed (R68). -/
theorem Pushed.push16 {s t : State} {vs : List Word} (h : Pushed s t vs) (v : Word) :
    Pushed s (t.push16 v) (vs ++ [v]) where
  pushes := h.pushes.append h.traffic.SS h.traffic.params h.traffic.masters (t.push16_pushes v)
  traffic := by
    have hpush := t.push16_form v
    rw [hpush.SP]
    exact (h.traffic.withSP (t.SP - 2#16)).trans hpush

/-- A jump after pushes (R330): what was pushed stays, and control is at the target. -/
theorem Pushed.jumpFar {s t : State} {vs : List Word} (h : Pushed s t vs) (cs ip : Word) :
    Pushes s (t.jumpFar cs ip) vs ∧ GoesTo s (t.jumpFar cs ip) cs ip ∧ (t.jumpFar cs ip).flags = s.flags := by
  obtain ⟨⟨hsp, hregs, hmem⟩, htraffic⟩ := h
  obtain ⟨hseg, -, -, hchip⟩ := htraffic.sameControl
  refine ⟨⟨hsp, fun r hr => ?_, hmem⟩, ⟨rfl, rfl, rfl, hseg, hchip⟩, htraffic.flags⟩
  rw [← hregs r hr]
  cases r <;> rfl

/-- A jump within the segment is a jump to the CS there is. -/
theorem State.jumpNear_eq (s : State) (ip : Word) : s.jumpNear ip = s.jumpFar s.CS ip := rfl

/-- A jump within the segment after pushes keeps CS (R330). -/
theorem Pushed.jumpNear {s t : State} {vs : List Word} (h : Pushed s t vs) (ip : Word) :
    Pushes s (t.jumpNear ip) vs ∧ GoesTo s (t.jumpNear ip) s.CS ip ∧ (t.jumpNear ip).flags = s.flags := by
  rw [State.jumpNear_eq, h.traffic.CS]
  exact h.jumpFar s.CS ip

/-- Settles O43: every CALL pushes its return address, CS first, and goes to the target, read before the pushes. -/
theorem callResults : Obligations.CallResults := fun s => by
  have hself := Pushed.ofReading (Reading.refl s)
  refine ⟨fun disp => ⟨_, rfl, (hself.push16 s.IP).jumpNear _⟩,
    fun rm => ⟨_, _, State.readLoc_is s .word (s.loc rm), rfl, ?_⟩,
    fun off seg => ⟨_, rfl, ((hself.push16 s.CS).push16 s.IP).jumpFar _ _⟩,
    fun m => ⟨_, _, _, (s.readPointer_reads m).1, (s.readPointer_reads m).2, rfl, ?_⟩⟩
  · exact ((Pushed.ofReading (State.readLoc_reading s .word (s.loc rm))).push16 s.IP).jumpNear _
  · exact (((Pushed.ofReading (s.readPointer_reading m)).push16 s.CS).push16 s.IP).jumpFar _ _

/-! ## RET -/

/-- A second pop delivers the word above the first (R69). -/
theorem State.pop16_second_reads (s : State) : Reads s s.SS (s.SP + 2#16) .word s.pop16.2.pop16.1 := by
  have h := s.pop16_reading
  have hread := Reads.before h s.pop16.2.pop16_reads
  rw [h.SS, h.SP] at hread
  exact hread

/-- Two pops are a reading with SP moved on by four. -/
theorem State.pop16_twice_reading (s : State) : Reading { s with SP := s.SP + 4#16 } s.pop16.2.pop16.2 := by
  have h := s.pop16_reading
  have hsecond := s.pop16.2.pop16_reading
  have hsp : s.pop16.2.SP + 2#16 = s.SP + 4#16 := by
    rw [h.SP]
    bv_omega
  rw [hsp] at hsecond
  exact (h.withSP (s.SP + 4#16)).trans hsecond

/-- A jump after a reading that moved SP (R330): control is at the target, only SP is new among the registers, and
nothing was stored. -/
theorem Reading.returns {s u : State} {sp : Word} (h : Reading { s with SP := sp } u) (cs ip : Word) :
    GoesTo s (u.jumpFar cs ip) cs ip ∧ SameRegs { s with SP := sp } (u.jumpFar cs ip)
      ∧ SameMemory s (u.jumpFar cs ip) ∧ (u.jumpFar cs ip).flags = s.flags := by
  obtain ⟨hseg, -, -, hchip⟩ := h.toTraffic.sameControl
  exact ⟨⟨rfl, rfl, rfl, hseg, hchip⟩, h.toTraffic.sameRegs.trans fun r => by cases r <;> rfl, h.same, h.flags⟩

/-- The same where a number is added to SP after the jump (R341, R343). -/
theorem Reading.returns_adding {s u : State} {sp : Word} (h : Reading { s with SP := sp } u) (cs ip n : Word) :
    GoesTo s { u.jumpFar cs ip with SP := u.SP + n } cs ip
      ∧ SameRegs { s with SP := sp + n } { u.jumpFar cs ip with SP := u.SP + n }
      ∧ SameMemory s { u.jumpFar cs ip with SP := u.SP + n }
      ∧ { u.jumpFar cs ip with SP := u.SP + n }.flags = s.flags := by
  rw [h.SP]
  exact (h.withSP (sp + n)).returns cs ip

/-- Settles O45: every RET takes IP, and CS where it is far, from the stack, and then adds its immediate to SP. -/
theorem returnResults : Obligations.ReturnResults := fun s => by
  have hnear := s.pop16_reading
  have hfar := s.pop16_twice_reading
  have ejump : s.pop16.2.jumpNear s.pop16.1 = s.pop16.2.jumpFar s.CS s.pop16.1 := by
    rw [State.jumpNear_eq, hnear.CS]
  refine ⟨⟨_, _, s.pop16_reads, rfl, ?_⟩, fun n => ⟨_, _, s.pop16_reads, rfl, ?_⟩,
    ⟨_, _, _, s.pop16_reads, s.pop16_second_reads, rfl, hfar.returns _ _⟩,
    fun n => ⟨_, _, _, s.pop16_reads, s.pop16_second_reads, rfl, hfar.returns_adding _ _ n⟩⟩
  · rw [ejump]
    exact hnear.returns _ _
  · rw [ejump]
    exact hnear.returns_adding _ _ n

/-! ## What comes back from the stack -/

/-- Memory answers at both bytes of a word, and they hold the value (R65). -/
structure State.HoldsWord (s : State) (seg off v : Word) : Prop where
  remembersLow : s.Remembers (phys seg off)
  remembersHigh : s.Remembers (phys seg (off + 1#16))
  low : s.byteAt (phys seg off) = lowByte v
  high : s.byteAt (phys seg (off + 1#16)) = highByte v

/-- With no other master writing an address can hold the byte it holds alone (D7). -/
theorem State.mayHold_undisturbed {s : State} (hu : s.Undisturbed) {a : PAddr} {b : Byte} (h : s.MayHold a b) :
    b = s.byteAt a := by
  rcases h with h | h
  · exact h
  · rw [State.masterBytes_undisturbed hu] at h
    cases h

section
variable {s t : State} {f : PAddr → Option Byte} (hu : s.Undisturbed) (h : MemoryAfter s t f) {a : PAddr} {b : Byte}
include hu h

/-- With no other master writing, a byte that is not stored stays (D7). -/
theorem MemoryAfter.unstored (hf : f a = none) : t.byteAt a = s.byteAt a := by
  have ha := h a
  rw [State.masterBytes_undisturbed hu, hf] at ha
  exact ha.resolve_right List.not_mem_nil

/-- With no other master writing, RAM holds what is stored (R79, D7). -/
theorem MemoryAfter.stored (hf : f a = some b) (hk : kindAt s.params.memMap a = .ram) : t.byteAt a = b := by
  have ha := h a
  rw [State.masterBytes_undisturbed hu, hf] at ha
  exact (ha.resolve_right List.not_mem_nil).trans (if_pos hk)

/-- With no other master writing, a byte stored where RAM does not answer changes nothing (R79, D7). -/
theorem MemoryAfter.stored_elsewhere (hf : f a = some b) (hk : kindAt s.params.memMap a ≠ .ram) :
    t.byteAt a = s.byteAt a := by
  have ha := h a
  rw [State.masterBytes_undisturbed hu, hf] at ha
  exact (ha.resolve_right List.not_mem_nil).trans (if_neg hk)

end

/-- With no other master writing, a word read back is the word held. -/
theorem State.HoldsWord.eq_of_reads {s : State} {seg off v x : Word} (h : s.HoldsWord seg off v) (hu : s.Undisturbed)
    (hx : Reads s seg off .word x) : x = v := by
  have hlow := (State.mayHold_undisturbed hu (hx.1 h.remembersLow)).trans h.low
  have hhigh := (State.mayHold_undisturbed hu (hx.2 h.remembersHigh)).trans h.high
  rw [← wordOf_bytes x, hlow, hhigh, wordOf_bytes]

/-- An address that is none of the bytes pushed gets nothing. -/
theorem pushedByte_none {ss sp : Word} {vs : List Word} {a : PAddr}
    (h : ∀ k < 2 * vs.length, a ≠ phys ss (sp - BitVec.ofNat 16 (k + 1))) : pushedByte ss sp vs a = none := by
  induction vs generalizing sp with
  | nil => rfl
  | cons v vs ih =>
    rw [List.length_cons] at h
    have hrest : pushedByte ss (sp - 2#16) vs a = none := ih fun k hk => by
      have e : sp - 2#16 - BitVec.ofNat 16 (k + 1) = sp - BitVec.ofNat 16 (k + 2 + 1) := by bv_omega
      rw [e]
      exact h (k + 2) (by omega)
    have hlow : a ≠ phys ss (sp - 2#16) := h 1 (by omega)
    have hhigh : a ≠ phys ss (sp - 2#16 + 1#16) := by
      rw [(word_below sp).1]
      exact h 0 (by omega)
    simp [pushedByte, hrest, storedByte, hlow, hhigh]

/-- The i-th word pushed lies below SP, its low byte first (R67, R68). -/
theorem pushedByte_word (ss sp : Word) (vs : List Word) (hl : vs.length ≤ 32768) (i : Nat) (hi : i < vs.length) :
    pushedByte ss sp vs (phys ss (sp - BitVec.ofNat 16 (2 * i + 2))) = some (lowByte vs[i])
      ∧ pushedByte ss sp vs (phys ss (sp - BitVec.ofNat 16 (2 * i + 1))) = some (highByte vs[i]) := by
  induction vs generalizing sp i with
  | nil => cases hi
  | cons v vs ih =>
    rw [List.length_cons] at hl hi
    cases i with
    | zero =>
      have later : ∀ off : Word, (off = sp - 2#16 ∨ off = sp - 1#16) →
          pushedByte ss (sp - 2#16) vs (phys ss off) = none := fun off hoff =>
        pushedByte_none fun k hk he => by
          have := phys_inj he
          rcases hoff with rfl | rfl <;> bv_omega
      have hne : phys ss (sp - 1#16) ≠ phys ss (sp - 2#16) := fun he => by
        have := phys_inj he
        bv_omega
      simp [pushedByte, later, storedByte, (word_below sp).1, hne]
    | succ i =>
      obtain ⟨hlow, hhigh⟩ := ih (sp - 2#16) (by omega) i (by omega)
      have e : ∀ j, sp - 2#16 - BitVec.ofNat 16 (2 * i + j) = sp - BitVec.ofNat 16 (2 * (i + 1) + j) := fun j => by
        bv_omega
      rw [e] at hlow hhigh
      simp [pushedByte, hlow, hhigh]

/-- With RAM under the stack and no other master writing, each word pushed is held where it was pushed. -/
theorem Pushes.holdsWord {s t : State} {vs : List Word} (h : Pushes s t vs) (hu : s.Undisturbed)
    (hp : t.params = s.params)
    (hram : ∀ k < 2 * vs.length, kindAt s.params.memMap (phys s.SS (s.SP - BitVec.ofNat 16 (k + 1))) = .ram)
    (hl : vs.length ≤ 32768) (i : Nat) (hi : i < vs.length) :
    t.HoldsWord s.SS (s.SP - BitVec.ofNat 16 (2 * i + 2)) vs[i] := by
  obtain ⟨hlow, hhigh⟩ := pushedByte_word s.SS s.SP vs hl i hi
  have enext : s.SP - BitVec.ofNat 16 (2 * i + 2) + 1#16 = s.SP - BitVec.ofNat 16 (2 * i + 1) := by bv_omega
  obtain ⟨-, -, hmem⟩ := h
  have ramLow := hram (2 * i + 1) (by omega)
  have ramHigh := hram (2 * i) (by omega)
  refine ⟨.inl (by rw [hp]; exact ramLow), .inl (by rw [enext, hp]; exact ramHigh), hmem.stored hu hlow ramLow, ?_⟩
  rw [enext]
  exact hmem.stored hu hhigh ramHigh

/-- With SP back where it was, pushes have changed no register. -/
theorem Pushes.sameRegs {s t : State} {vs : List Word} (h : Pushes s t vs) {sp : Word} (hsp : sp = s.SP) :
    SameRegs s { t with SP := sp } := fun r => by
  by_cases hr : r = .sp
  · subst hr
    exact hsp
  · rw [← h.2.1 r (by simpa using hr)]
    cases r <;> first | rfl | exact absurd rfl hr

/-- A word pushed is the word a read of its place gives afterwards, with RAM there and no other master writing. -/
theorem Pushes.eq_of_reads {s t : State} {vs : List Word} (h : Pushes s t vs) (hu : s.Undisturbed) (ht : t.Undisturbed)
    (hp : t.params = s.params) (hss : t.SS = s.SS)
    (hram : ∀ k < 2 * vs.length, kindAt s.params.memMap (phys s.SS (s.SP - BitVec.ofNat 16 (k + 1))) = .ram)
    (hl : vs.length ≤ 32768) (i : Nat) (hi : i < vs.length) {off x : Word}
    (hoff : off = s.SP - BitVec.ofNat 16 (2 * i + 2)) (hx : Reads t t.SS off .word x) : x = vs[i] := by
  rw [hss, hoff] at hx
  exact (h.holdsWord hu hp hram hl i hi).eq_of_reads ht hx

theorem SameDataSegs.trans {s t u : State} (h : SameDataSegs s t) (k : SameDataSegs t u) : SameDataSegs s u :=
  ⟨k.1.trans h.1, k.2.1.trans h.2.1, k.2.2.trans h.2.2⟩

theorem SameChip.trans {s t u : State} (h : SameChip s t) (k : SameChip t u) : SameChip s u := by
  simp_all [SameChip]

theorem SameChip.params {s t : State} (h : SameChip s t) : t.params = s.params := by
  obtain ⟨-, -, -, hp, -⟩ := h
  exact hp

/-- One transfer after another is a transfer to where the second goes. -/
theorem GoesTo.trans {s t u : State} {cs ip cs' ip' : Word} (h : GoesTo s t cs ip) (k : GoesTo t u cs' ip') :
    GoesTo s u cs' ip' := by
  obtain ⟨-, -, -, hseg, hchip⟩ := h
  obtain ⟨kcs, kip, kq, kseg, kchip⟩ := k
  exact ⟨kcs, kip, kq, hseg.trans kseg, hchip.trans kchip⟩

/-- A third pop delivers the word above the second (R69). -/
theorem State.pop16_third_reads (s : State) : Reads s s.SS (s.SP + 4#16) .word s.pop16.2.pop16.2.pop16.1 := by
  have h := s.pop16_twice_reading
  have hread := Reads.before h s.pop16.2.pop16.2.pop16_reads
  rw [h.SS, h.SP] at hread
  exact hread

/-- Three pops are a reading with SP moved on by six. -/
theorem State.pop16_thrice_reading (s : State) :
    Reading { s with SP := s.SP + 6#16 } s.pop16.2.pop16.2.pop16.2 := by
  have h := s.pop16_twice_reading
  have hthird := s.pop16.2.pop16.2.pop16_reading
  have hsp : s.pop16.2.pop16.2.SP + 2#16 = s.SP + 6#16 := by
    rw [h.SP]
    bv_omega
  rw [hsp] at hthird
  exact (h.withSP (s.SP + 6#16)).trans hthird

/-- The return from an interrupt (R393): control goes where the first two words popped say, the third gives the flags,
and nothing is stored. -/
theorem State.interruptReturn_returns (s : State) :
    GoesTo s s.interruptReturn s.pop16.2.pop16.1 s.pop16.1
      ∧ s.interruptReturn.flags = Flags.ofImage s.pop16.2.pop16.2.pop16.1
      ∧ SameRegs { s with SP := s.SP + 6#16 } s.interruptReturn ∧ SameMemory s s.interruptReturn := by
  obtain ⟨hgo, hregs, hmem, -⟩ := s.pop16_thrice_reading.returns s.pop16.2.pop16.1 s.pop16.1
  exact ⟨hgo, rfl, hregs.trans fun r => by cases r <;> rfl, hmem⟩

/-- The flags read back from their image (R30, R41, R181). -/
theorem Flags.ofImage_image (f : Flags) (x : Word) : Flags.ofImage (f.image x) = f := by
  cases f
  simp [Flags.ofImage, Flags.image, flagAt, flagsXMask]

/-- A push asks no other master onto the bus. -/
theorem State.push16_undisturbed {s : State} (hu : s.Undisturbed) (v : Word) : (s.push16 v).Undisturbed :=
  (s.push16_form v).undisturbed hu

/-- The interrupt sequence asks no other master onto the bus. -/
theorem State.interrupt_undisturbed {s : State} (hu : s.Undisturbed) (ty : Byte) (ip : Word) :
    (s.interrupt ty ip).Undisturbed := by
  obtain ⟨u, _, _, _, e, htraffic, -⟩ := s.interrupt_form ty ip
  rw [e]
  exact htraffic.undisturbed hu

/-- A word pushed and popped into a register (R68, R69, R159, R162). -/
theorem push_pop (s : State) (hu : s.Undisturbed) (r q : Reg16)
    (hram : ∀ k < 2, kindAt s.params.memMap (phys s.SS (s.SP - BitVec.ofNat 16 (k + 1))) = .ram) :
    ∃ t u, exec (.pushReg r) s = .next t ∧ exec (.popReg q) t = .next u
      ∧ u.reg16 q = (if r = .sp then s.SP - 2#16 else s.reg16 r) ∧ SameRegsBut [q] s u ∧ u.flags = s.flags := by
  obtain ⟨hpush, -⟩ := pushResults s
  obtain ⟨t, ht, hpushes, hflags, hseg, -, -, hchip⟩ := hpush r
  have htu : t.Undisturbed := by
    cases ht
    exact (s.pushOf_form _).undisturbed hu
  obtain ⟨hpop, -⟩ := popResults t
  obtain ⟨v, u, hv, hexec, hregs, -, huflags, -⟩ := hpop q
  have hval := hpushes.eq_of_reads hu htu hchip.params hseg.2.1 hram (by simp) 0 (by simp) hpushes.1 hv
  have hpushed : t.SP = s.SP - 2#16 := hpushes.1
  have hsp : t.SP + 2#16 = s.SP := by
    rw [hpushed]
    bv_omega
  refine ⟨t, u, ht, hexec, ?_, fun p hp => ?_, huflags.trans hflags⟩
  · rw [hregs q, State.reg16_setReg16_same, hval]
    rfl
  · rw [hregs p, State.reg16_setReg16_other _ _ _ _ (by simpa using hp)]
    exact hpushes.sameRegs hsp p

/-- A near CALL and its RET (R331, R340). -/
theorem call_ret (s : State) (hu : s.Undisturbed) (disp : Word)
    (hram : ∀ k < 2, kindAt s.params.memMap (phys s.SS (s.SP - BitVec.ofNat 16 (k + 1))) = .ram) :
    ∃ t u, exec (.callNear disp) s = .next t ∧ exec .ret t = .next u ∧ GoesTo s u s.CS s.IP ∧ SameRegs s u
      ∧ u.flags = s.flags := by
  obtain ⟨hcall, -⟩ := callResults s
  obtain ⟨t, ht, hpushes, hgo, hflags⟩ := hcall disp
  have htu : t.Undisturbed := by
    cases ht
    exact State.push16_undisturbed hu s.IP
  obtain ⟨⟨ip, u, hip, hexec, hret, hregs, -, huflags⟩, -⟩ := returnResults t
  have ⟨hcs, _, _, hseg, hchip⟩ := hgo
  have hval := hpushes.eq_of_reads hu htu hchip.params hseg.2.1 hram (by simp) 0 (by simp) hpushes.1 hip
  have hpushed : t.SP = s.SP - 2#16 := hpushes.1
  have hsp : t.SP + 2#16 = s.SP := by
    rw [hpushed]
    bv_omega
  rw [hcs, hval] at hret
  exact ⟨t, u, ht, hexec, hgo.trans hret, (hpushes.sameRegs hsp).trans hregs, huflags.trans hflags⟩

/-- A far CALL and its RET (R333, R342). -/
theorem callFar_retf (s : State) (hu : s.Undisturbed) (off seg : Word)
    (hram : ∀ k < 4, kindAt s.params.memMap (phys s.SS (s.SP - BitVec.ofNat 16 (k + 1))) = .ram) :
    ∃ t u, exec (.callFar off seg) s = .next t ∧ exec .retf t = .next u ∧ GoesTo s u s.CS s.IP ∧ SameRegs s u
      ∧ u.flags = s.flags := by
  obtain ⟨-, -, hcall, -⟩ := callResults s
  obtain ⟨t, ht, hpushes, hgo, hflags⟩ := hcall off seg
  have htu : t.Undisturbed := by
    cases ht
    exact State.push16_undisturbed (State.push16_undisturbed hu s.CS) s.IP
  obtain ⟨-, -, ⟨ip, cs, u, hip, hcs, hexec, hret, hregs, -, huflags⟩, -⟩ := returnResults t
  have ⟨_, _, _, hseg, hchip⟩ := hgo
  have hsp : t.SP = s.SP - 4#16 := hpushes.1
  have comesBack := hpushes.eq_of_reads hu htu hchip.params hseg.2.1 hram (by simp)
  have hipval := comesBack 1 (by simp) hsp hip
  have hcsval := comesBack 0 (by simp) (by rw [hsp]; bv_omega) hcs
  rw [hipval, hcsval] at hret
  exact ⟨t, u, ht, hexec, hgo.trans hret, (hpushes.sameRegs (by rw [hsp]; bv_omega)).trans hregs,
    huflags.trans hflags⟩

/-- An interrupt of any type and IRET (R390, R393, R440). -/
theorem int_iret (s : State) (hu : s.Undisturbed) (n : Byte)
    (hram : ∀ k < 6, kindAt s.params.memMap (phys s.SS (s.SP - BitVec.ofNat 16 (k + 1))) = .ram) :
    ∃ t u, exec (.intN n) s = .next t ∧ exec .iret t = .next u ∧ u.CS = s.CS ∧ u.IP = s.IP ∧ u.flags = s.flags
      ∧ SameRegs s u ∧ SameDataSegs s u
      ∧ ∀ a : PAddr, (∀ k < 6, a ≠ phys s.SS (s.SP - BitVec.ofNat 16 (k + 1))) → u.byteAt a = s.byteAt a := by
  obtain ⟨hpushes, -, -, hseg, -, -, -, -, -, hp, -⟩ := (s.interrupt_taken n s.IP).1
  have htu := State.interrupt_undisturbed hu n s.IP
  refine ⟨s.interrupt n s.IP, _, rfl, rfl, ?_⟩
  generalize s.interrupt n s.IP = t at *
  obtain ⟨⟨hcs, hip, -, huseg, -⟩, hflags, hregs, hmem⟩ := t.interruptReturn_returns
  have hsp : t.SP = s.SP - 6#16 := hpushes.1
  have comesBack := hpushes.eq_of_reads hu htu hp hseg.2.1 hram (by simp)
  have hipval := comesBack 2 (by simp) hsp t.pop16_reads
  have hcsval := comesBack 1 (by simp) (by rw [hsp]; bv_omega) t.pop16_second_reads
  have hfval := comesBack 0 (by simp) (by rw [hsp]; bv_omega) t.pop16_third_reads
  refine ⟨hcs.trans hcsval, hip.trans hipval, ?_, (hpushes.sameRegs (by rw [hsp]; bv_omega)).trans hregs,
    hseg.trans huseg, fun a ha => ?_⟩
  · rw [hflags, hfval]
    exact Flags.ofImage_image _ _
  · obtain ⟨-, -, hstored⟩ := hpushes
    have hmiss := pushedByte_none (vs := [s.flags.image s.params.flagsX, s.CS, s.IP]) ha
    exact (State.mayHold_undisturbed htu (hmem a)).trans (hstored.unstored hu hmiss)

/-- Settles O50: what is pushed comes back, by a POP, by the RET of a CALL and by the IRET of an interrupt. -/
theorem stackRoundTrips : Obligations.StackRoundTrips := fun s hu =>
  ⟨push_pop s hu, call_ret s hu, callFar_retf s hu, int_iret s hu⟩

end Sys2Proof.Machine
end

section
/-! PROOFS. What a bus cycle shows and what answers it: the I/O ports and the regions of memory (O22, O23, O59), with
the physical address (O15) and the completion of every instruction (O14). -/

namespace Sys2Proof.Machine

/-- Settles O14: `exec_completes`, by the constructors of `Instr`. -/
theorem everyInstructionCompletes : Obligations.EveryInstructionCompletes := exec_completes

/-- Settles O15: `phys` is taken modulo 2^20 because it is a number of 20 bits. -/
theorem physicalAddress : Obligations.PhysicalAddress := fun seg off =>
  BitVec.toNat_ofNat (seg.toNat * 16 + off.toNat) 20

/-! ## The trace -/

/-- A cycle other than an instruction fetch is one more that the instruction asked for (R77). -/
theorem State.logCycle_dataCycles (s : State) {c : BusCycle} (h : c.kind ≠ .code) :
    (s.logCycle c).dataCycles = c :: s.dataCycles := by
  simp [State.dataCycles, h]

/-! ## Ports -/

/-- The byte that answers a port is the devices' next answer, where they give one (R75). -/
theorem State.portByte_answer {s : State} {b : Byte} (h : s.portIn[0]? = some b) : s.portByte = b := by
  unfold State.portByte
  cases hp : s.portIn with
  | nil => simp [hp] at h
  | cons x xs => simpa [hp] using h

/-- One Read I/O Port cycle: the byte is the next answer, and the cycle shows it (R75). -/
theorem State.ioReadByte_cycle (s : State) (g : Gap) (port : Word) :
    (∀ b, s.portIn[0]? = some b → (s.ioReadByte g port).1 = b)
      ∧ (s.ioReadByte g port).2.dataCycles =
        s.cycle .ioRead .codeOrNone (some (port.setWidth 20)) (some (s.ioReadByte g port).1) :: s.dataCycles
      ∧ (s.ioReadByte g port).2.portIn = s.portIn.tail := by
  refine ⟨fun b hb => State.portByte_answer (s := s.gap g) hb, ?_, rfl⟩
  have h := State.logCycle_dataCycles (s.gap g)
    (c := s.cycle .ioRead .codeOrNone (some (port.setWidth 20)) (some (s.ioReadByte g port).1)) (by simp [State.cycle])
  rw [State.gap_dataCycles] at h
  exact h

/-- Reading a port: the answers, the cycles and what is left of the answers (R75). -/
theorem State.ioRead_cycles (s : State) (port : Word) (w : Width) :
    PortAnswers s w (s.ioRead port w).1
      ∧ (s.ioRead port w).2.dataCycles = portCycles s .ioRead port w (s.ioRead port w).1 ++ s.dataCycles
      ∧ (s.ioRead port w).2.portIn = s.portIn.drop (w.bits / 8) := by
  obtain ⟨hlo, hloCycle, hloRest⟩ := s.ioReadByte_cycle .free port
  cases w with
  | byte => exact ⟨hlo, hloCycle, hloRest.trans List.drop_one.symm⟩
  | word =>
    obtain ⟨hhi, hhiCycle, hhiRest⟩ := (s.ioReadByte .free port).2.ioReadByte_cycle .wordHalf (port + 1#16)
    rw [hloRest] at hhi hhiRest
    rw [hloCycle] at hhiCycle
    have hv : (s.ioRead port .word).1 = wordOf (s.ioReadByte .free port).1
      ((s.ioReadByte .free port).2.ioReadByte .wordHalf (port + 1#16)).1 := rfl
    refine ⟨⟨fun b hb => ?_, fun b hb => ?_⟩, ?_, hhiRest.trans ?_⟩
    · rw [hv, lowByte_wordOf]
      exact hlo b hb
    · rw [hv, highByte_wordOf]
      exact hhi b (by rw [List.getElem?_tail]; exact hb)
    · rw [hv]
      simp only [portCycles, lowByte_wordOf, highByte_wordOf]
      exact hhiCycle
    · rw [← List.drop_one, ← List.drop_one, List.drop_drop]
      rfl

/-- The accumulator loaded from a port (R170, R171). -/
theorem State.ioRead_readsPort (s : State) (port : Word) (w : Width) :
    ReadsPort s ((s.ioRead port w).2.setAcc w (s.ioRead port w).1) port w := by
  obtain ⟨hanswers, hcycles, hrest⟩ := s.ioRead_cycles port w
  obtain ⟨⟨hregs, hmem⟩, hflags, hseg, hcs, hip, hchip⟩ :=
    State.writeLoc_assigns (s.ioRead_form port w) w (.reg .axAl) (s.ioRead port w).1
  obtain ⟨_, _, _, _, _, _, _, _, e⟩ := State.setReg_form (s.ioRead port w).2 w .axAl (s.ioRead port w).1
  have hportIn : ((s.ioRead port w).2.setAcc w (s.ioRead port w).1).portIn = (s.ioRead port w).2.portIn :=
    (congrArg State.portIn e).trans rfl
  have hbus : ((s.ioRead port w).2.setAcc w (s.ioRead port w).1).dataCycles = (s.ioRead port w).2.dataCycles :=
    (congrArg State.dataCycles e).trans rfl
  have hsame : SameRegs s { s with portIn := (s.ioRead port w).2.portIn } := fun r => by cases r <;> rfl
  refine ⟨(s.ioRead port w).1, hanswers, hbus.trans hcycles, hportIn.trans hrest, (hsame.setReg w .axAl _).trans hregs,
    hmem, hflags, hseg, hcs, hip, ?_⟩
  rw [hportIn]
  exact hchip

/-- Settles O22: IN takes the devices' answers into the accumulator, low byte first, one cycle a byte. -/
theorem inResults : Obligations.InResults := fun s w =>
  ⟨fun port => ⟨_, rfl, s.ioRead_readsPort (zext16 port) w⟩, _, rfl, s.ioRead_readsPort s.DX w⟩

theorem State.ioWriteByte_dataCycles (s : State) (g : Gap) (port : Word) (v : Byte) :
    (s.ioWriteByte g port v).dataCycles =
      s.cycle .ioWrite .codeOrNone (some (port.setWidth 20)) (some v) :: s.dataCycles := by
  rw [State.ioWriteByte, State.logCycle_dataCycles _ (by simp [State.cycle]), State.gap_dataCycles]

/-- Writing a port: one cycle a byte, the low byte first (R76). -/
theorem State.ioWrite_dataCycles (s : State) (port : Word) (w : Width) (v : BitVec w.bits) :
    (s.ioWrite port w v).dataCycles = portCycles s .ioWrite port w v ++ s.dataCycles := by
  cases w with
  | byte => exact s.ioWriteByte_dataCycles .free port v
  | word =>
    have h := (s.ioWriteByte .free port (lowByte v)).ioWriteByte_dataCycles .wordHalf (port + 1#16) (highByte v)
    rw [s.ioWriteByte_dataCycles .free port (lowByte v)] at h
    exact h

/-- Settles O23: OUT runs its port cycles, low byte first, and is otherwise a reading. -/
theorem outResults : Obligations.OutResults := fun s w => by
  have outs : ∀ port, SetsRegs s (s.ioWrite port w (s.acc w)) s := fun port => by
    have h := s.ioWrite_reading port w (s.acc w)
    exact ⟨h.sameRegs, h.same, h.flags, h.toTraffic.sameControl⟩
  exact ⟨fun port => ⟨_, rfl, s.ioWrite_dataCycles (zext16 port) w _, outs _⟩,
    _, rfl, s.ioWrite_dataCycles s.DX w _, outs _⟩

/-! ## What answers at an address -/

section
variable {s : State} (hu : s.Undisturbed) (hc : ∀ off, kindAt s.params.memMap (phys s.CS off) ≠ .device)

include hc in
/-- Where no code is in a device, a prefetch uses up none of the devices' answers (R85, R457). -/
theorem State.prefetchMany_devIn (n : Nat) : (State.prefetchMany n s).devIn = s.devIn := by
  induction n generalizing s with
  | zero => rfl
  | succ n ih => exact (ih (s := s.prefetchOne) hc).trans (if_neg (hc _))

include hc in
theorem State.prefetchIf_devIn (c : Bool) : (s.prefetchIf c).devIn = s.devIn := by
  unfold State.prefetchIf
  simp only []
  split
  · exact State.prefetchMany_devIn (s := { s with draws := s.draws + 1 }) hc _
  · rfl

include hu in
/-- With no other master writing, an arbitration uses up none of the devices' answers. -/
theorem State.arbitrate_devIn (g : Gap) : (s.arbitrate g).devIn = s.devIn := by
  rcases hu with h | ⟨hr, hg⟩
  · simp [State.arbitrate, h]
  · rw [State.arbitrate_quiet s g hr hg]

include hu hc in
theorem State.gap_devIn (g : Gap) : (s.gap g).devIn = s.devIn :=
  (State.arbitrate_devIn ((s.prefetchIf_reading _).undisturbed hu) g).trans (State.prefetchIf_devIn hc _)

include hu hc in
/-- A byte read: a device gives its next answer and uses it up, anything else leaves the answers (R79, R457). -/
theorem State.readPhys_devices (g : Gap) (sg : SegStatus) (pa : PAddr) :
    (kindAt s.params.memMap pa = .device →
        (∀ b, s.devIn.head? = some b → (s.readPhys g sg pa).1 = b) ∧ (s.readPhys g sg pa).2.devIn = s.devIn.tail)
      ∧ (kindAt s.params.memMap pa ≠ .device → (s.readPhys g sg pa).2.devIn = s.devIn) := by
  have hgap := State.gap_devIn hu hc g
  have hrest : (s.readPhys g sg pa).2.devIn = (s.gap g).devRest pa := rfl
  rw [hrest]
  unfold State.devRest
  rw [hgap, State.gap_params]
  refine ⟨fun hk => ⟨fun b hb => ?_, if_pos hk⟩, fun hk => if_neg hk⟩
  show (s.gap g).physByte pa = b
  unfold State.physByte
  rw [hgap, State.gap_params, hk]
  cases hd : s.devIn with
  | nil => simp [hd] at hb
  | cons x xs => simpa [hd] using hb

end

/-- A byte read is one Read Memory cycle, whatever answers (R64, R77). -/
theorem State.readPhys_dataCycles (s : State) (g : Gap) (sg : SegStatus) (pa : PAddr) :
    (s.readPhys g sg pa).2.dataCycles =
      s.cycle .memRead sg (some pa) (some (s.readPhys g sg pa).1) :: s.dataCycles := by
  have h := State.logCycle_dataCycles (s.gap g) (c := s.cycle .memRead sg (some pa) (some (s.readPhys g sg pa).1))
    (by simp [State.cycle])
  rw [State.gap_dataCycles] at h
  exact h

/-- A byte written is one Write Memory cycle, whatever answers (R64, R77). -/
theorem State.writePhys_dataCycles (s : State) (g : Gap) (sg : SegStatus) (pa : PAddr) (v : Byte) :
    (s.writePhys g sg pa v).dataCycles = s.cycle .memWrite sg (some pa) (some v) :: s.dataCycles := by
  have h : ((s.gap g).storeByte pa v).dataCycles = s.dataCycles := s.gap_dataCycles g
  rw [State.writePhys, State.logCycle_dataCycles _ (by simp [State.cycle]), h]

/-- AL loaded is AL, and nothing else of the state but registers differs. -/
theorem State.setAcc_byte (s : State) (v : Byte) :
    (s.setAcc .byte v).reg8 .al = v ∧ (s.setAcc .byte v).dataCycles = s.dataCycles
      ∧ (s.setAcc .byte v).devIn = s.devIn := ⟨s.reg8_setReg8_same .al v, rfl, rfl⟩

/-- Settles O59: one cycle at the address whatever answers; memory gives the byte it holds, a device its next answer,
and only RAM takes a byte. -/
theorem regionAnswers : Obligations.RegionAnswers := by
  intro s addr pa k hu hc hpa hk
  subst hpa
  have hstores : MemoryAfter s _ _ := s.memWrite_stores s.dataSeg (s.sreg s.dataSeg) addr .byte (s.reg8 .al)
  have hat : storedByte (s.sreg s.dataSeg) addr .byte (s.reg8 .al) (phys (s.sreg s.dataSeg) addr) = some (s.reg8 .al) :=
    if_pos rfl
  refine ⟨⟨_, rfl, ?_⟩, _, rfl, s.writePhys_dataCycles .free _ _ _, fun hram => hstores.stored hu hat (hk.trans hram),
    fun hram => hstores.stored_elsewhere hu hat (hk ▸ hram), fun a ha => hstores.unstored hu (if_neg ha),
    State.gap_devIn hu hc .free⟩
  obtain ⟨hdev, hnodev⟩ := State.readPhys_devices hu hc .free (segStatusOf s.dataSeg) (phys (s.sreg s.dataSeg) addr)
  have hreads := s.memRead_reads s.dataSeg (s.sreg s.dataSeg) addr .byte
  obtain ⟨hal, hcycles, hdevIn⟩ := State.setAcc_byte (s.memRead s.dataSeg (s.sreg s.dataSeg) addr .byte).2
    (s.memRead s.dataSeg (s.sreg s.dataSeg) addr .byte).1
  rw [hal, hcycles, hdevIn]
  subst hk
  exact ⟨s.readPhys_dataCycles .free _ _, fun hm => State.mayHold_undisturbed hu (hreads hm), hdev, hnodev⟩

end Sys2Proof.Machine
end

section
/-! PROOFS. A request for the bus, LOCK and a low READY (O57). -/

namespace Sys2Proof.Machine

/-! ## Requests in the order they are honored -/

/-- The requests of one pin keep their order (R476). -/
theorem inOrder_filter (l : List BusRequest) (pin : BusPin) :
    (inOrder l).filter (fun q => q.pin == pin) = l.filter fun q => q.pin == pin := by
  unfold inOrder
  rw [List.filter_append, List.filter_filter, List.filter_filter]
  cases pin with
  | first =>
    have h : ∀ q : BusRequest, (q.pin == .first && q.pin == .second) = false := fun q => by cases q.pin <;> rfl
    simp [h]
  | second =>
    have h : ∀ q : BusRequest, (q.pin == .second && q.pin == .first) = false := fun q => by cases q.pin <;> rfl
    simp [h]

/-- Where there is a request one is honored first (R476). -/
theorem inOrder_cons {l : List BusRequest} (h : l ≠ []) : ∃ r rs, inOrder l = r :: rs := by
  refine List.exists_cons_of_ne_nil fun he => h ?_
  refine List.eq_nil_iff_forall_not_mem.mpr fun q hq => ?_
  have hpin : q ∈ l.filter fun x => x.pin == q.pin := List.mem_filter.mpr ⟨hq, by simp⟩
  rw [← inOrder_filter, he] at hpin
  cases hpin

/-- RQ/GT0 goes before RQ/GT1 (R476). -/
theorem inOrder_first {l rs : List BusRequest} {r : BusRequest} (h : inOrder l = r :: rs)
    (hl : ∃ q ∈ l, q.pin = .first) : r.pin = .first := by
  obtain ⟨q, hq, hpin⟩ := hl
  have hfirst : q ∈ l.filter fun x => x.pin == .first := List.mem_filter.mpr ⟨hq, by simp [hpin]⟩
  unfold inOrder at h
  cases hf : l.filter fun x => x.pin == .first with
  | nil =>
    rw [hf] at hfirst
    cases hfirst
  | cons x xs =>
    have hx : x ∈ l.filter fun y => y.pin == .first := by simp [hf]
    rw [hf] at h
    cases h
    simpa using (List.mem_filter.mp hx).2

/-! ## What another master writes -/

/-- What another master writes changes memory alone (R80). -/
theorem State.masterWrites_eq (s : State) (ws : List (PAddr × Byte)) :
    s.masterWrites ws = { s with mem := (s.masterWrites ws).mem } := by
  unfold State.masterWrites
  split
  · induction ws generalizing s with
    | nil => rfl
    | cons w ws ih => exact (ih (s.storeByte w.1 w.2) ‹_›).trans rfl
  · rfl

/-- What another master writes depends on memory and the parameters alone. -/
theorem State.masterWrites_mem {s t : State} (hm : t.mem = s.mem) (hp : t.params = s.params)
    (ws : List (PAddr × Byte)) : (t.masterWrites ws).mem = (s.masterWrites ws).mem := by
  unfold State.masterWrites
  rw [hp]
  split
  · induction ws generalizing s t with
    | nil => exact hm
    | cons w ws ih =>
      refine ih (s := s.storeByte w.1 w.2) (t := t.storeByte w.1 w.2) ?_ hp ‹_›
      unfold State.storeByte
      rw [hm, hp]
  · exact hm

/-! ## The bus given away and taken back -/

/-- The bus taken back by a halted chip: the halt status again (R408, R475). -/
theorem State.reclaimBus_halted {s : State} (hb : s.busGranted = true) (hh : s.halted = true) :
    s.reclaimBus =
      { s with busGranted := false, bus := s.cycle .halt .codeOrNone none none :: s.bus } := by
  unfold State.reclaimBus
  simp only [hb, hh, if_true]
  rfl

/-- The bus taken back by a chip that is not halted runs no cycle but instruction fetches (R85). -/
theorem State.reclaimBus_dataCycles {s : State} (hh : s.halted = false) : s.reclaimBus.dataCycles = s.dataCycles := by
  unfold State.reclaimBus
  split
  · show State.dataCycles (if s.halted then _ else _) = _
    rw [if_neg (by simp [hh])]
    exact State.prefetchIf_dataCycles { s with busGranted := false } true
  · rfl

/-- A grant of the bus to the master of request `r`, the requests `rs` staying recorded (R475, R476): memory is as that
master writes it; the queue and the trace as they were, unless the chip had the bus back between two grants. -/
theorem State.grantBus_some {s : State} {r : BusRequest} {rs : List BusRequest} (hl : s.lockActive = false)
    (hi : inOrder s.requests = r :: rs) :
    ∃ q b d n,
      s.grantBus = some
          { s with
            mem := (s.masterWrites r.writes).mem, queue := q, bus := b, devIn := d, draws := n, busGranted := true
            requests := rs }
        ∧ (s.params.mode = .min ∨ s.busGranted = false → b = s.bus ∧ q = s.queue)
        ∧ (s.params.mode = .max → s.busGranted = true → s.halted = true →
          b = s.cycle .halt .codeOrNone none none :: s.bus ∧ q = s.queue)
        ∧ (s.halted = false → (b.filter fun c => c.kind != .code) = s.dataCycles) := by
  unfold State.grantBus
  rw [if_neg (by simp [hl]), hi]
  by_cases hm : s.params.mode = .max
  · obtain ⟨q, b, d, n, e⟩ := s.reclaimBus_form
    have hmem : (s.reclaimBus.masterWrites r.writes).mem = (s.masterWrites r.writes).mem :=
      State.masterWrites_mem (by rw [e]) (by rw [e]) r.writes
    refine ⟨q, b, d, n, ?_, fun h => ?_, fun _ hb hh => ?_, fun hh => ?_⟩
    · simp only [hm, if_true]
      rw [State.masterWrites_eq, hmem, e]
    · rw [State.reclaimBus_held (h.resolve_left (by simp [hm]))] at e
      exact ⟨(congrArg State.bus e).symm, (congrArg State.queue e).symm⟩
    · rw [State.reclaimBus_halted hb hh] at e
      exact ⟨(congrArg State.bus e).symm, (congrArg State.queue e).symm⟩
    · have hd := State.reclaimBus_dataCycles hh
      rw [e] at hd
      exact hd
  · refine ⟨s.queue, s.bus, s.devIn, s.draws, ?_, fun _ => ⟨rfl, rfl⟩, fun h => absurd h hm, fun _ => rfl⟩
    simp only [hm, if_false]
    rw [State.masterWrites_eq]

/-! ## The step -/

theorem State.samplePins_cons {s : State} {p : PinSample} {ps : List PinSample} (he : s.env = p :: ps) :
    s.samplePins =
      { s with
        pins := some p
        env := ps
        nmiLatch := s.nmiLatch || s.edgeSeen p
        draws := s.draws + if s.fresh then 1 else 0
        gaps := p.gaps.map s.heard
        requests := s.recorded ++ s.heard p.requests } := by
  unfold State.samplePins
  rw [he]

/-- LOCK is active where it is in force in maximum mode (R82). -/
theorem State.lockActive_iff {s : State} : s.lockActive = true ↔ s.lock = true ∧ s.params.mode = .max := by
  simp [State.lockActive]

/-- A bus cycle that waits for READY waits on (R477). -/
theorem step_stalled {s : State} (hr : s.samplePins.resetHigh = false) (hs : s.samplePins.stalled = true)
    (hy : s.samplePins.ready = false) : step s = .next s.samplePins := by
  simp [step, State.advance, hr, hs, hy]

/-- A bus given away is all a step does (R82, R475). -/
theorem step_grants {s u t : State} (hu : { s.samplePins with stalled := false } = u)
    (hr : s.samplePins.resetHigh = false) (hw : s.samplePins.stalled = false ∨ s.samplePins.ready = true)
    (hg : u.grantBus = some t) : step s = .next t := by
  subst hu
  have hwait : (s.samplePins.stalled && !s.samplePins.ready) = false := by rcases hw with h | h <;> simp [h]
  simp [step, State.advance, hr, hwait, hg]

/-- A step whose pins are sampled and whose READY is low ends with a bus cycle in progress where it ran one (R477). -/
theorem step_ends_stalled {s u t : State} (h : s.Sampled u) (hy : u.ready = false) (ht : step s = .next t) :
    t.stalled = true ↔ ∃ c ∈ t.bus.take (t.bus.length - s.bus.length), c.kind ≠ .halt := by
  rw [State.advance_sampled h] at ht
  cases hb : u.boundary with
  | next v =>
    rw [hb] at ht
    cases ht
    unfold State.ended
    rw [if_neg (by simp [hy])]
    simp only [List.any_eq_true, bne_iff_ne]
  | fault r => exact nomatch r
  | refused r =>
    rw [hb] at ht
    cases ht

/-- Settles O57: a stalled cycle waits, a request is granted, a halted chip takes the bus back, and a step with READY
low ends stalled where it ran a cycle. -/
theorem busHeld : Obligations.BusHeld := by
  intro s u p ps he hreset hu
  have hpins := State.samplePins_cons he
  have hresetHigh : s.samplePins.resetHigh = false := by
    rw [hpins]
    exact hreset
  have hsampled : { s.samplePins with stalled := false } = u := by
    rw [hpins, hu]
    rfl
  have sampled : s.stalled = false ∨ p.ready = true → u.requests = [] ∨ u.lockActive = true → s.Sampled u.reclaimBus :=
    fun hw hq => ⟨u, .inr ⟨p, ps, he, hreset, hw.symm, hu⟩, hq, rfl⟩
  have hlock : u.lockActive = true ↔ s.lock = true ∧ s.params.mode = .max := by
    rw [State.lockActive_iff, hu]
  have hready : u.reclaimBus.ready = p.ready := by
    rw [State.ready_reclaimBus, hu]
    rfl
  refine ⟨fun hs hy => ?_, fun hw hl hq => ?_, fun hw hq hb hh hp hf hn => ?_, fun hs hy hq t ht => ?_⟩
  · have hstep : step s = .next s.samplePins :=
      step_stalled hresetHigh (by rw [hpins]; exact hs) (by rw [hpins]; exact hy)
    have e : s.samplePins = { u with stalled := true } := by
      rw [hpins, hu, ← hs]
      rfl
    rw [hstep, e]
  · obtain ⟨r, rs, hi⟩ := inOrder_cons hq
    obtain ⟨q, b, d, n, hg, hheld, hhalted, hdata⟩ :=
      State.grantBus_some (Bool.eq_false_iff.mpr fun h => hl (hlock.mp h)) hi
    rw [State.masterWrites_mem (s := s) (by rw [hu]) (by rw [hu])] at hg
    refine ⟨r, rs, _, step_grants hsampled hresetHigh (by rw [hpins]; exact hw) hg, fun pin => ?_, inOrder_first hi, ?_⟩
    · rw [← hi, inOrder_filter]
    subst hu
    exact ⟨rfl, rfl, ⟨⟨rfl, rfl, rfl, rfl⟩, ⟨rfl, rfl, rfl, rfl, rfl⟩, ⟨rfl, rfl, rfl, rfl, rfl⟩, rfl, rfl, rfl, rfl⟩,
      fun r => by cases r <;> rfl, ⟨rfl, rfl, rfl⟩, rfl, rfl, rfl, fun _ => rfl, hheld, hhalted, hdata⟩
  · have hreclaim : u.reclaimBus =
        { u with busGranted := false, bus := s.cycle .halt .codeOrNone none none :: s.bus } := by
      rw [State.reclaimBus_halted (by rw [hu]; exact hb) (by rw [hu]; exact hh), hu]
      rfl
    have hs := sampled hw (.inl hq)
    rw [hreclaim] at hs
    obtain ⟨hstays, -⟩ := nothingRecognised s _ hs (by rw [hu]; exact hf) hn
    exact hstays (by rw [hu]; exact hh) (by rw [hu]; exact hp)
  · have hs := sampled (.inl hs) (hq.symm.imp_right hlock.mpr)
    exact step_ends_stalled hs (hready.trans hy) ht

end Sys2Proof.Machine
end

section
/-! PROOFS. The round trip of 30_encoding.md R100 to R142 in both directions (O1, O2): what a parser reads of the bytes
is what the encoder writes, first for the parts of an encoding, then row by row of the opcode map. -/

namespace Sys2Proof

open Bit

/-- Settles O1: a well-formed instruction decodes to itself, whatever bytes follow. -/
theorem decodeOfEncode : Obligations.DecodeOfEncode := fun _ h rest => decode_encode h rest

/-! ## What a successful parse read -/

theorem parseThen_eq_ok {α β : Type} {p : Parse α} {f : α → List Byte → Parse β} {r : β × List Byte} :
    parseThen p f = .ok r ↔ ∃ a bs, p = .ok (a, bs) ∧ f a bs = .ok r := by
  constructor
  · intro h
    match p, h with
    | .ok (a, bs), h => exact ⟨a, bs, rfl, h⟩
  · rintro ⟨a, bs, rfl, h⟩
    exact h

theorem parseMap_eq_ok {α β : Type} {f : α → β} {p : Parse α} {b : β} {rest : List Byte} :
    parseMap f p = .ok (b, rest) ↔ ∃ a, p = .ok (a, rest) ∧ f a = b := by
  constructor
  · intro h
    match p, h with
    | .ok (a, bs), h =>
      cases h
      exact ⟨a, rfl, rfl⟩
  · rintro ⟨a, rfl, rfl⟩
    rfl

theorem takeByte_eq_ok {bs rest : List Byte} {b : Byte} : takeByte bs = .ok (b, rest) ↔ bs = b :: rest := by
  cases bs <;> simp [takeByte]

theorem bytesOfWord_wordOf (lo hi : Byte) : bytesOfWord (wordOf lo hi) = [lo, hi] := by
  simp [bytesOfWord, Machine.lowByte_wordOf, Machine.highByte_wordOf]

theorem takeWord_eq_ok {bs rest : List Byte} {w : Word} :
    takeWord bs = .ok (w, rest) ↔ bs = bytesOfWord w ++ rest := by
  constructor
  · intro h
    match bs, h with
    | lo :: hi :: bs, h =>
      cases h
      rw [bytesOfWord_wordOf]
      rfl
  · rintro rfl
    exact takeWord_bytesOfWord w rest

theorem takeImm_eq_ok {bs rest : List Byte} {w : Width} {imm : Imm} (h : takeImm w bs = .ok (imm, rest)) :
    imm.width = w ∧ bs = encodeImm imm ++ rest := by
  cases w with
  | byte =>
    obtain ⟨b, hb, rfl⟩ := parseMap_eq_ok.mp h
    exact ⟨rfl, takeByte_eq_ok.mp hb⟩
  | word =>
    obtain ⟨v, hv, rfl⟩ := parseMap_eq_ok.mp h
    exact ⟨rfl, takeWord_eq_ok.mp hv⟩

/-- The bits `s` and `w` are kept by the immediate they size (R115). -/
theorem takeImmSW_eq_ok {bs rest : List Byte} {s w : Bit} {imm : ImmSW} (h : takeImmSW s w bs = .ok (imm, rest)) :
    opcodeOfImmSW imm = byteOf I O O O O O s w ∧ bs = encodeImmSW imm ++ rest := by
  match s, w with
  | O, O | I, O | I, I =>
    obtain ⟨b, hb, rfl⟩ := parseMap_eq_ok.mp h
    exact ⟨rfl, takeByte_eq_ok.mp hb⟩
  | O, I =>
    obtain ⟨v, hv, rfl⟩ := parseMap_eq_ok.mp h
    exact ⟨rfl, takeWord_eq_ok.mp hv⟩

/-- An operand read is the operand its second byte and displacement encode, and is never (BP) with no displacement
(R111 to R113). -/
theorem takeRM_eq_ok {second : Byte} {bs rest : List Byte} {rm : RM} (h : takeRM second bs = .ok (rm, rest)) :
    encodeRM (regField second) rm ++ rest = second :: bs ∧ rm.wf = true := by
  have hsecond := secondByte_fields second
  unfold takeRM at h
  split at h
  next h7 h6 =>
    cases h
    rw [h7, h6] at hsecond
    simp [encodeRM, hsecond, RM.wf]
  next h7 h6 hrm =>
    obtain ⟨a, ha, rfl⟩ := parseMap_eq_ok.mp h
    rw [h7, h6, hrm] at hsecond
    simp [encodeRM, encodeMem, hsecond, takeWord_eq_ok.mp ha, RM.wf, MemOp.wf]
  next h7 h6 hrm =>
    cases h
    rw [h7, h6] at hsecond
    refine ⟨by simp [encodeRM, encodeMem, hsecond], ?_⟩
    cases hn : rmField second
    case b110 => exact absurd hn hrm
    all_goals rfl
  next h7 h6 =>
    obtain ⟨b, hb, rfl⟩ := parseMap_eq_ok.mp h
    rw [h7, h6] at hsecond
    refine ⟨by simp [encodeRM, encodeMem, hsecond, takeByte_eq_ok.mp hb], ?_⟩
    cases rmField second <;> rfl
  next h7 h6 =>
    obtain ⟨v, hv, rfl⟩ := parseMap_eq_ok.mp h
    rw [h7, h6] at hsecond
    refine ⟨by simp [encodeRM, encodeMem, hsecond, takeWord_eq_ok.mp hv], ?_⟩
    cases rmField second <;> rfl

/-- Format F-MS keeps its register field where bit 5 is zero (R102). -/
theorem midOfSReg_sregOf (b4 b3 : Bit) : midOfSReg (sregOf b4 b3) = bits3Of O b4 b3 := by
  cases b4 <;> cases b3 <;> rfl

/-! ## Faithful parsers -/

/-- Whatever `p` reads after the bytes `pre`, the encoder writes back, `pre` included, and it is well-formed. -/
def Faithful (pre : List Byte) (p : List Byte → Parse Instr) : Prop :=
  ∀ bs i rest, p bs = .ok (i, rest) → encode i ++ rest = pre ++ bs ∧ i.wf = true

namespace Faithful

variable {pre : List Byte} {op second : Byte}

theorem error (e : DecodeError) : Faithful pre fun _ => .error e := fun _ _ _ h => nomatch h

theorem plain {i : Instr} (henc : encode i = pre) (hwf : i.wf = true) : Faithful pre (plain i) := by
  intro bs _ _ h
  cases h
  exact ⟨by rw [henc], hwf⟩

theorem withByte {mk : Byte → Instr} (henc : ∀ b, encode (mk b) = [op, b]) (hwf : ∀ b, (mk b).wf = true) :
    Faithful [op] (withByte mk) := by
  intro bs _ rest h
  obtain ⟨b, hb, rfl⟩ := parseMap_eq_ok.mp h
  exact ⟨by rw [henc, takeByte_eq_ok.mp hb]; rfl, hwf b⟩

theorem withWord {mk : Word → Instr} (henc : ∀ v, encode (mk v) = op :: bytesOfWord v)
    (hwf : ∀ v, (mk v).wf = true) : Faithful [op] (withWord mk) := by
  intro bs _ rest h
  obtain ⟨v, hv, rfl⟩ := parseMap_eq_ok.mp h
  exact ⟨by rw [henc, takeWord_eq_ok.mp hv]; rfl, hwf v⟩

theorem withFar {mk : Word → Word → Instr}
    (henc : ∀ off seg, encode (mk off seg) = op :: bytesOfWord off ++ bytesOfWord seg)
    (hwf : ∀ off seg, (mk off seg).wf = true) : Faithful [op] (withFar mk) := by
  intro bs _ rest h
  obtain ⟨off, bs₁, hoff, h⟩ := parseThen_eq_ok.mp h
  obtain ⟨seg, bs₂, hseg, h⟩ := parseThen_eq_ok.mp h
  cases h
  rw [takeWord_eq_ok] at hoff hseg
  exact ⟨by simp [henc, hoff, hseg], hwf off seg⟩

theorem withImm {w : Width} {mk : Imm → Instr}
    (henc : ∀ imm, imm.width = w → encode (mk imm) = op :: encodeImm imm) (hwf : ∀ imm, (mk imm).wf = true) :
    Faithful [op] (withImm w mk) := by
  intro bs _ rest h
  obtain ⟨imm, himm, rfl⟩ := parseMap_eq_ok.mp h
  obtain ⟨hw, rfl⟩ := takeImm_eq_ok himm
  exact ⟨by rw [henc imm hw]; rfl, hwf imm⟩

/-- A parser that reads one more byte first. -/
theorem takeByte {f : Byte → List Byte → Parse Instr} (hf : ∀ second, Faithful [op, second] (f second)) :
    Faithful [op] fun bs => parseThen (takeByte bs) f := by
  intro bs i rest h
  obtain ⟨second, bs₁, hb, h⟩ := parseThen_eq_ok.mp h
  rw [takeByte_eq_ok.mp hb]
  exact hf second bs₁ i rest h

/-- A parser that reads the operand first: what it reads next follows the operand's own bytes. -/
theorem takeRM {f : RM → List Byte → Parse Instr}
    (hf : ∀ rm, rm.wf = true → Faithful (op :: encodeRM (regField second) rm) (f rm)) :
    Faithful [op, second] fun bs => parseThen (takeRM second bs) f := by
  intro bs i rest h
  obtain ⟨rm, bs₁, hrm, h⟩ := parseThen_eq_ok.mp h
  obtain ⟨henc, hwf⟩ := takeRM_eq_ok hrm
  obtain ⟨he, hi⟩ := hf rm hwf bs₁ i rest h
  exact ⟨by rw [he, List.cons_append, henc]; rfl, hi⟩

/-- A parser that reads an immediate last. -/
theorem takeImm {w : Width} {mk : Imm → Instr} (henc : ∀ imm, imm.width = w → encode (mk imm) = pre ++ encodeImm imm)
    (hwf : ∀ imm, (mk imm).wf = true) :
    Faithful pre fun bs => parseThen (takeImm w bs) fun imm bs => .ok (mk imm, bs) := by
  intro bs _ rest h
  obtain ⟨imm, bs₁, himm, h⟩ := parseThen_eq_ok.mp h
  cases h
  obtain ⟨hw, rfl⟩ := takeImm_eq_ok himm
  exact ⟨by rw [henc imm hw, List.append_assoc], hwf imm⟩

theorem withOperand {mk : RM → Instr} (henc : ∀ rm, encode (mk rm) = op :: encodeRM (regField second) rm)
    (hwf : ∀ rm, (mk rm).wf = rm.wf) : Faithful [op, second] (withOperand second mk) := by
  intro bs _ rest h
  obtain ⟨rm, hrm, rfl⟩ := parseMap_eq_ok.mp h
  obtain ⟨he, hi⟩ := takeRM_eq_ok hrm
  exact ⟨by rw [henc, List.cons_append, he]; rfl, (hwf rm).trans hi⟩

theorem withPointer {o : Byte} {mk : MemOp → Instr}
    (henc : ∀ m, encode (mk m) = op :: encodeMem (regField second) m) (hwf : ∀ m, (mk m).wf = m.wf) :
    Faithful [op, second] (withPointer o second mk) :=
  takeRM fun rm hrm =>
    match rm, hrm with
    | .reg _, _ => error _
    | .mem m, hm => plain (henc m) ((hwf m).trans hm)

theorem withRegRM {mk : RM → RegNum → Instr} (henc : ∀ rm reg, encode (mk rm reg) = op :: encodeRM reg.toBits3 rm)
    (hwf : ∀ rm reg, (mk rm reg).wf = rm.wf) : Faithful [op] (withRegRM mk) :=
  takeByte fun second => takeRM fun rm hrm =>
    plain (by rw [henc, RegNum.toBits3_ofBits]) ((hwf rm _).trans hrm)

theorem withRegMem {o : Byte} {mk : Reg16 → MemOp → Instr}
    (henc : ∀ r m, encode (mk r m) = op :: encodeMem r.toBits3 m) (hwf : ∀ r m, (mk r m).wf = m.wf) :
    Faithful [op] (withRegMem o mk) :=
  takeByte fun second =>
    withPointer (fun m => by rw [henc, RegNum.toBits3_reg16_ofBits]) (hwf _)

/-! ## The groups of R121 -/

theorem grp1Arith {s w : Bit} {mk : RM → ImmSW → Instr}
    (henc : ∀ rm imm, encode (mk rm imm) = opcodeOfImmSW imm :: encodeRM (regField second) rm ++ encodeImmSW imm)
    (hwf : ∀ rm imm, (mk rm imm).wf = rm.wf) :
    Faithful [byteOf I O O O O O s w, second] (grp1Arith s w second mk) :=
  takeRM fun rm hrm bs _ rest h => by
    obtain ⟨imm, bs₁, himm, h⟩ := parseThen_eq_ok.mp h
    cases h
    obtain ⟨hop, rfl⟩ := takeImmSW_eq_ok himm
    exact ⟨by rw [henc, hop, List.append_assoc], (hwf rm imm).trans hrm⟩

theorem grp1Logic {o : Byte} {s w : Bit} {mk : RM → Imm → Instr}
    (henc : ∀ rm imm, encode (mk rm imm)
      = byteOf I O O O O O O (bitOfWidth imm.width) :: encodeRM (regField second) rm ++ encodeImm imm)
    (hwf : ∀ rm imm, (mk rm imm).wf = rm.wf) :
    Faithful [byteOf I O O O O O s w, second] (grp1Logic o s w second mk) :=
  match s with
  | I => error _
  | O => takeRM fun rm hrm => takeImm (fun imm hw => by rw [henc, hw, bitOfWidth_widthOf]) fun imm =>
    (hwf rm imm).trans hrm

theorem decodeGrp1 (o : Byte) (s w : Bit) : Faithful [byteOf I O O O O O s w] (decodeGrp1 o s w) :=
  takeByte fun second => by
    cases hf : regField second
    case b000 | b010 | b011 | b101 | b111 => exact grp1Arith (by simp [encode, hf]) (fun _ _ => rfl)
    case b001 | b100 | b110 => exact grp1Logic (by simp [encode, hf]) (fun _ _ => rfl)

theorem decodeGrp2 (o : Byte) (v w : Bit) :
    Faithful [byteOf I I O I O O v w] (decodeGrp2 o (countOf v) (widthOf w)) :=
  takeByte fun second => by
    cases hf : regField second
    case b110 => exact error _
    all_goals exact withOperand (by simp [encode, hf]) (fun _ => rfl)

theorem decodeGrp3 (o : Byte) (w : Bit) : Faithful [byteOf I I I I O I I w] (decodeGrp3 o (widthOf w)) :=
  takeByte fun second => by
    cases hf : regField second
    case b000 =>
      exact takeRM fun rm hrm => takeImm (fun imm hw => by simp [encode, hf, hw]) fun _ => hrm
    case b001 => exact error _
    all_goals exact withOperand (by simp [encode, hf]) (fun _ => rfl)

theorem decodeGrp4 (o : Byte) : Faithful [byteOf I I I I I I I O] (decodeGrp4 o) :=
  takeByte fun second => by
    cases hf : regField second
    case b000 | b001 => exact withOperand (by simp [encode, hf, bitOfWidth]) (fun _ => rfl)
    all_goals exact error _

theorem decodeGrp5 (o : Byte) : Faithful [byteOf I I I I I I I I] (decodeGrp5 o) :=
  takeByte fun second => by
    cases hf : regField second
    case b011 | b101 => exact withPointer (by simp [encode, hf]) (fun _ => rfl)
    case b111 => exact error _
    all_goals exact withOperand (by simp [encode, hf, bitOfWidth]) (fun _ => rfl)

theorem decodeExt0 {o : Byte} {p : Byte → List Byte → Parse Instr}
    (hp : ∀ second, regField second = .b000 → Faithful [op, second] (p second)) : Faithful [op] (decodeExt0 o p) :=
  takeByte fun second => by
    cases hf : regField second
    case b000 => exact hp second hf
    all_goals exact error _

theorem decodePopRm (o : Byte) : Faithful [byteOf I O O O I I I I] (decodePopRm o) :=
  decodeExt0 fun second hf => withOperand (by simp [encode, hf]) (fun _ => rfl)

theorem decodeMovRmImm (o : Byte) (w : Bit) : Faithful [byteOf I I O O O I I w] (decodeMovRmImm o (widthOf w)) :=
  decodeExt0 fun second hf => takeRM fun rm hrm => takeImm (fun imm hw => by simp [encode, hf, hw]) fun _ => hrm

theorem decodeMovRmSreg (o : Byte) : Faithful [byteOf I O O O I I O O] (decodeMovRmSreg o) :=
  takeByte fun second => by
    cases h5 : bitOf second 5
    case I => exact error _
    case O => exact withOperand (by simp [encode, regField, h5, midOfSReg_sregOf]) (fun _ => rfl)

theorem decodeMovSregRm (o : Byte) : Faithful [byteOf I O O O I I I O] (decodeMovSregRm o) :=
  takeByte fun second => by
    cases h5 : bitOf second 5
    case I => exact error _
    case O =>
      have hf : regField second = midOfSReg (sregOf (bitOf second 4) (bitOf second 3)) := by
        rw [midOfSReg_sregOf, regField, h5]
      cases hsr : sregOf (bitOf second 4) (bitOf second 3)
      case cs => exact error _
      all_goals exact withOperand (by simp [encode, hf, hsr, DataSReg.toSReg]) (fun _ => rfl)

theorem decodeAdjust {o : Byte} {i : Instr} (henc : encode i = [op, 0x0A#8]) (hwf : i.wf = true) :
    Faithful [op] (decodeAdjust o i) :=
  takeByte fun second bs _ rest h => by
    split at h
    next hs =>
      cases h
      exact ⟨by rw [henc, hs], hwf⟩
    next => cases h

theorem decodeEsc (x2 x1 x0 : Bit) : Faithful [byteOf I I O I I x2 x1 x0] (decodeEsc (bits3Of x2 x1 x0)) :=
  takeByte fun second => takeRM fun rm hrm => plain (by simp [encode]) hrm

/-! ## The rows of R120 -/

theorem decodeRow0 : ∀ b3 b2 b1 b0, Faithful [byteOf O O O O b3 b2 b1 b0] (decodeRow0 b3 b2 b1 b0)
  | O, O, d, w => withRegRM (by simp [encode]) (fun _ _ => rfl)
  | O, I, O, w => withImm (by simp +contextual [encode]) (fun _ => rfl)
  | O, I, I, O => plain rfl rfl
  | O, I, I, I => plain rfl rfl
  | I, O, d, w => withRegRM (by simp [encode]) (fun _ _ => rfl)
  | I, I, O, w => withImm (by simp +contextual [encode]) (fun _ => rfl)
  | I, I, I, O => plain rfl rfl
  | I, I, I, I => error _

theorem decodeRow1 : ∀ b3 b2 b1 b0, Faithful [byteOf O O O I b3 b2 b1 b0] (decodeRow1 b3 b2 b1 b0)
  | O, O, d, w => withRegRM (by simp [encode]) (fun _ _ => rfl)
  | O, I, O, w => withImm (by simp +contextual [encode]) (fun _ => rfl)
  | O, I, I, O => plain rfl rfl
  | O, I, I, I => plain rfl rfl
  | I, O, d, w => withRegRM (by simp [encode]) (fun _ _ => rfl)
  | I, I, O, w => withImm (by simp +contextual [encode]) (fun _ => rfl)
  | I, I, I, O => plain rfl rfl
  | I, I, I, I => plain rfl rfl

theorem decodeRow2 : ∀ b3 b2 b1 b0, Faithful [byteOf O O I O b3 b2 b1 b0] (decodeRow2 b3 b2 b1 b0)
  | O, O, d, w => withRegRM (by simp [encode]) (fun _ _ => rfl)
  | O, I, O, w => withImm (by simp +contextual [encode]) (fun _ => rfl)
  | O, I, I, O => plain rfl rfl
  | O, I, I, I => plain rfl rfl
  | I, O, d, w => withRegRM (by simp [encode]) (fun _ _ => rfl)
  | I, I, O, w => withImm (by simp +contextual [encode]) (fun _ => rfl)
  | I, I, I, O => plain rfl rfl
  | I, I, I, I => plain rfl rfl

theorem decodeRow3 : ∀ b3 b2 b1 b0, Faithful [byteOf O O I I b3 b2 b1 b0] (decodeRow3 b3 b2 b1 b0)
  | O, O, d, w => withRegRM (by simp [encode]) (fun _ _ => rfl)
  | O, I, O, w => withImm (by simp +contextual [encode]) (fun _ => rfl)
  | O, I, I, O => plain rfl rfl
  | O, I, I, I => plain rfl rfl
  | I, O, d, w => withRegRM (by simp [encode]) (fun _ _ => rfl)
  | I, I, O, w => withImm (by simp +contextual [encode]) (fun _ => rfl)
  | I, I, I, O => plain rfl rfl
  | I, I, I, I => plain rfl rfl

theorem decodeRow4 : ∀ b3 b2 b1 b0, Faithful [byteOf O I O O b3 b2 b1 b0] (decodeRow4 b3 b2 b1 b0)
  | O, _, _, _ => plain (by simp [encode, opcodeReg]) rfl
  | I, _, _, _ => plain (by simp [encode, opcodeReg]) rfl

theorem decodeRow5 : ∀ b3 b2 b1 b0, Faithful [byteOf O I O I b3 b2 b1 b0] (decodeRow5 b3 b2 b1 b0)
  | O, _, _, _ => plain (by simp [encode, opcodeReg]) rfl
  | I, _, _, _ => plain (by simp [encode, opcodeReg]) rfl

theorem decodeRow7 (b3 b2 b1 b0 : Bit) : Faithful [byteOf O I I I b3 b2 b1 b0] (decodeRow7 b3 b2 b1 b0) := by
  cases b3 <;> cases b2 <;> cases b1 <;> cases b0 <;> exact withByte (fun _ => rfl) fun _ => rfl

theorem decodeRow8 (o : Byte) : ∀ b3 b2 b1 b0, Faithful [byteOf I O O O b3 b2 b1 b0] (decodeRow8 o b3 b2 b1 b0)
  | O, O, s, w => decodeGrp1 o s w
  | O, I, O, w => withRegRM (by simp [encode]) (fun _ _ => rfl)
  | O, I, I, w => withRegRM (by simp [encode]) (fun _ _ => rfl)
  | I, O, d, w => withRegRM (by simp [encode]) (fun _ _ => rfl)
  | I, I, O, O => decodeMovRmSreg o
  | I, I, O, I => withRegMem (fun _ _ => rfl) (fun _ _ => rfl)
  | I, I, I, O => decodeMovSregRm o
  | I, I, I, I => decodePopRm o

theorem decodeRow9 : ∀ b3 b2 b1 b0, Faithful [byteOf I O O I b3 b2 b1 b0] (decodeRow9 b3 b2 b1 b0)
  | O, r2, r1, r0 => plain (by simp [encode, opcodeReg]) rfl
  | I, O, O, O => plain rfl rfl
  | I, O, O, I => plain rfl rfl
  | I, O, I, O => withFar (fun _ _ => rfl) (fun _ _ => rfl)
  | I, O, I, I => plain rfl rfl
  | I, I, O, O => plain rfl rfl
  | I, I, O, I => plain rfl rfl
  | I, I, I, O => plain rfl rfl
  | I, I, I, I => plain rfl rfl

theorem decodeRowA : ∀ b3 b2 b1 b0, Faithful [byteOf I O I O b3 b2 b1 b0] (decodeRowA b3 b2 b1 b0)
  | O, O, O, w => withWord (by simp [encode]) (fun _ => rfl)
  | O, O, I, w => withWord (by simp [encode]) (fun _ => rfl)
  | O, I, O, w => plain (by simp [encode]) rfl
  | O, I, I, w => plain (by simp [encode]) rfl
  | I, O, O, w => withImm (by simp +contextual [encode]) (fun _ => rfl)
  | I, O, I, w => plain (by simp [encode]) rfl
  | I, I, O, w => plain (by simp [encode]) rfl
  | I, I, I, w => plain (by simp [encode]) rfl

theorem decodeRowB (b3 b2 b1 b0 : Bit) : Faithful [byteOf I O I I b3 b2 b1 b0] (decodeRowB b3 b2 b1 b0) :=
  withImm (by simp +contextual [encode, opcodeReg]) (fun _ => rfl)

theorem decodeRowC (o : Byte) : ∀ b3 b2 b1 b0, Faithful [byteOf I I O O b3 b2 b1 b0] (decodeRowC o b3 b2 b1 b0)
  | O, O, O, _ => error _
  | O, O, I, O => withWord (fun _ => rfl) (fun _ => rfl)
  | O, O, I, I => plain rfl rfl
  | O, I, O, O => withRegMem (fun _ _ => rfl) (fun _ _ => rfl)
  | O, I, O, I => withRegMem (fun _ _ => rfl) (fun _ _ => rfl)
  | O, I, I, w => decodeMovRmImm o w
  | I, O, O, _ => error _
  | I, O, I, O => withWord (fun _ => rfl) (fun _ => rfl)
  | I, O, I, I => plain rfl rfl
  | I, I, O, O => plain rfl rfl
  | I, I, O, I => withByte (fun _ => rfl) (fun _ => rfl)
  | I, I, I, O => plain rfl rfl
  | I, I, I, I => plain rfl rfl

theorem decodeRowD (o : Byte) : ∀ b3 b2 b1 b0, Faithful [byteOf I I O I b3 b2 b1 b0] (decodeRowD o b3 b2 b1 b0)
  | O, O, v, w => decodeGrp2 o v w
  | O, I, O, O => decodeAdjust rfl rfl
  | O, I, O, I => decodeAdjust rfl rfl
  | O, I, I, O => error _
  | O, I, I, I => plain rfl rfl
  | I, x2, x1, x0 => decodeEsc x2 x1 x0

theorem decodeRowE : ∀ b3 b2 b1 b0, Faithful [byteOf I I I O b3 b2 b1 b0] (decodeRowE b3 b2 b1 b0)
  | O, O, O, O => withByte (fun _ => rfl) (fun _ => rfl)
  | O, O, O, I => withByte (fun _ => rfl) (fun _ => rfl)
  | O, O, I, O => withByte (fun _ => rfl) (fun _ => rfl)
  | O, O, I, I => withByte (fun _ => rfl) (fun _ => rfl)
  | O, I, O, w => withByte (by simp [encode]) (fun _ => rfl)
  | O, I, I, w => withByte (by simp [encode]) (fun _ => rfl)
  | I, O, O, O => withWord (fun _ => rfl) (fun _ => rfl)
  | I, O, O, I => withWord (fun _ => rfl) (fun _ => rfl)
  | I, O, I, O => withFar (fun _ _ => rfl) (fun _ _ => rfl)
  | I, O, I, I => withByte (fun _ => rfl) (fun _ => rfl)
  | I, I, O, w => plain (by simp [encode]) rfl
  | I, I, I, w => plain (by simp [encode]) rfl

theorem decodeRowF (o : Byte) : ∀ b3 b2 b1 b0, Faithful [byteOf I I I I b3 b2 b1 b0] (decodeRowF o b3 b2 b1 b0)
  | O, O, O, O => plain rfl rfl
  | O, O, O, I => error _
  | O, O, I, z => plain (by simp [encode]) rfl
  | O, I, O, O => plain rfl rfl
  | O, I, O, I => plain rfl rfl
  | O, I, I, w => decodeGrp3 o w
  | I, O, O, O => plain rfl rfl
  | I, O, O, I => plain rfl rfl
  | I, O, I, O => plain rfl rfl
  | I, O, I, I => plain rfl rfl
  | I, I, O, O => plain rfl rfl
  | I, I, O, I => plain rfl rfl
  | I, I, I, O => decodeGrp4 o
  | I, I, I, I => decodeGrp5 o

end Faithful

/-- The opcode map of R120, to be gone through row by row: what holds of every opcode byte with the parser of its row
holds of every opcode byte. -/
theorem decodeOpcode_byRow {P : Byte → (List Byte → Parse Instr) → Prop}
    (row0 : ∀ b3 b2 b1 b0, P (byteOf O O O O b3 b2 b1 b0) (decodeRow0 b3 b2 b1 b0))
    (row1 : ∀ b3 b2 b1 b0, P (byteOf O O O I b3 b2 b1 b0) (decodeRow1 b3 b2 b1 b0))
    (row2 : ∀ b3 b2 b1 b0, P (byteOf O O I O b3 b2 b1 b0) (decodeRow2 b3 b2 b1 b0))
    (row3 : ∀ b3 b2 b1 b0, P (byteOf O O I I b3 b2 b1 b0) (decodeRow3 b3 b2 b1 b0))
    (row4 : ∀ b3 b2 b1 b0, P (byteOf O I O O b3 b2 b1 b0) (decodeRow4 b3 b2 b1 b0))
    (row5 : ∀ b3 b2 b1 b0, P (byteOf O I O I b3 b2 b1 b0) (decodeRow5 b3 b2 b1 b0))
    (row6 : ∀ o b3 b2 b1 b0, P (byteOf O I I O b3 b2 b1 b0) fun _ => .error (.unlistedOpcode o))
    (row7 : ∀ b3 b2 b1 b0, P (byteOf O I I I b3 b2 b1 b0) (decodeRow7 b3 b2 b1 b0))
    (row8 : ∀ o b3 b2 b1 b0, P (byteOf I O O O b3 b2 b1 b0) (decodeRow8 o b3 b2 b1 b0))
    (row9 : ∀ b3 b2 b1 b0, P (byteOf I O O I b3 b2 b1 b0) (decodeRow9 b3 b2 b1 b0))
    (rowA : ∀ b3 b2 b1 b0, P (byteOf I O I O b3 b2 b1 b0) (decodeRowA b3 b2 b1 b0))
    (rowB : ∀ b3 b2 b1 b0, P (byteOf I O I I b3 b2 b1 b0) (decodeRowB b3 b2 b1 b0))
    (rowC : ∀ o b3 b2 b1 b0, P (byteOf I I O O b3 b2 b1 b0) (decodeRowC o b3 b2 b1 b0))
    (rowD : ∀ o b3 b2 b1 b0, P (byteOf I I O I b3 b2 b1 b0) (decodeRowD o b3 b2 b1 b0))
    (rowE : ∀ b3 b2 b1 b0, P (byteOf I I I O b3 b2 b1 b0) (decodeRowE b3 b2 b1 b0))
    (rowF : ∀ o b3 b2 b1 b0, P (byteOf I I I I b3 b2 b1 b0) (decodeRowF o b3 b2 b1 b0))
    (op : Byte) : P op (decodeOpcode op) := by
  rw [← byteOf_bitOf op]
  generalize bitOf op 7 = b7, bitOf op 6 = b6, bitOf op 5 = b5, bitOf op 4 = b4
  simp only [decodeOpcode, bitOf7_byteOf, bitOf6_byteOf, bitOf5_byteOf, bitOf4_byteOf, bitOf3_byteOf, bitOf2_byteOf,
    bitOf1_byteOf, bitOf0_byteOf]
  match b7, b6, b5, b4 with
  | O, O, O, O => exact row0 _ _ _ _
  | O, O, O, I => exact row1 _ _ _ _
  | O, O, I, O => exact row2 _ _ _ _
  | O, O, I, I => exact row3 _ _ _ _
  | O, I, O, O => exact row4 _ _ _ _
  | O, I, O, I => exact row5 _ _ _ _
  | O, I, I, O => exact row6 _ _ _ _ _
  | O, I, I, I => exact row7 _ _ _ _
  | I, O, O, O => exact row8 _ _ _ _ _
  | I, O, O, I => exact row9 _ _ _ _
  | I, O, I, O => exact rowA _ _ _ _
  | I, O, I, I => exact rowB _ _ _ _
  | I, I, O, O => exact rowC _ _ _ _ _
  | I, I, O, I => exact rowD _ _ _ _ _
  | I, I, I, O => exact rowE _ _ _ _
  | I, I, I, I => exact rowF _ _ _ _ _

/-- The opcode map drops no bit of an encoding (R120, R142). -/
theorem Faithful.decodeOpcode (op : Byte) : Faithful [op] (decodeOpcode op) :=
  decodeOpcode_byRow (P := fun op p => Faithful [op] p) decodeRow0 decodeRow1 decodeRow2 decodeRow3 decodeRow4
    decodeRow5 (fun _ _ _ _ _ => error _) decodeRow7 decodeRow8 decodeRow9 decodeRowA decodeRowB decodeRowC
    decodeRowD decodeRowE decodeRowF op

/-- Settles O2: bytes that decode are the encoding of the decoded instruction, which is well-formed. -/
theorem encodeOfDecode : Obligations.EncodeOfDecode := by
  intro bs i rest h
  cases bs with
  | nil => cases h
  | cons op bs => exact Faithful.decodeOpcode op bs i rest h

end Sys2Proof
end

section
/-! PROOFS. What the decoder refuses (O3): first how many bytes each parser needs at most, then, row by row of the
opcode map, the second bytes that are refused (30_encoding.md R130, R131, R132). -/

namespace Sys2Proof

open Bit Machine

/-! ## Parsers that refuse nothing -/

/-- Given `n` bytes `p` succeeds, and it reads no more than that. -/
def NeedsAtMost {α : Type} (n : Nat) (p : List Byte → Parse α) : Prop :=
  ∀ bs, n ≤ bs.length → ∃ a rest, p bs = .ok (a, rest) ∧ bs.length ≤ rest.length + n

namespace NeedsAtMost

theorem mono {α : Type} {p : List Byte → Parse α} {m n : Nat} (h : NeedsAtMost m p) (hmn : m ≤ n := by decide) :
    NeedsAtMost n p := fun bs hbs => by
  obtain ⟨a, rest, hp, hr⟩ := h bs (by omega)
  exact ⟨a, rest, hp, by omega⟩

theorem map {α β : Type} {p : List Byte → Parse α} {n : Nat} (h : NeedsAtMost n p) (f : α → β) :
    NeedsAtMost n fun bs => parseMap f (p bs) := fun bs hbs => by
  obtain ⟨a, rest, hp, hr⟩ := h bs hbs
  exact ⟨f a, rest, by simp [hp], hr⟩

theorem andThen {α β : Type} {p : List Byte → Parse α} {f : α → List Byte → Parse β} {m n : Nat}
    (h : NeedsAtMost m p) (hf : ∀ a, NeedsAtMost n (f a)) : NeedsAtMost (m + n) fun bs => parseThen (p bs) f :=
  fun bs hbs => by
    obtain ⟨a, bs₁, hp, hm⟩ := h bs (by omega)
    obtain ⟨b, rest, hf, hn⟩ := hf a bs₁ (by omega)
    exact ⟨b, rest, by simp [hp, hf], by omega⟩

theorem ok {α : Type} (a : α) : NeedsAtMost 0 fun bs => .ok (a, bs) := fun bs _ => ⟨a, bs, rfl, Nat.le_refl _⟩

theorem takeByte : NeedsAtMost 1 takeByte := fun bs hbs =>
  match bs, hbs with
  | b :: bs, _ => ⟨b, bs, rfl, Nat.le_refl _⟩

theorem takeWord : NeedsAtMost 2 takeWord := fun bs hbs =>
  match bs, hbs with
  | lo :: hi :: bs, _ => ⟨wordOf lo hi, bs, rfl, Nat.le_refl _⟩

theorem takeImm (w : Width) : NeedsAtMost 2 (takeImm w) :=
  match w with
  | .byte => (takeByte.map _).mono
  | .word => takeWord.map _

theorem takeImmSW (s w : Bit) : NeedsAtMost 2 (takeImmSW s w) :=
  match s, w with
  | O, O | I, O | I, I => (takeByte.map _).mono
  | O, I => takeWord.map _

theorem takeRM (second : Byte) : NeedsAtMost 2 (takeRM second) := fun bs hbs => by
  unfold Sys2Proof.takeRM
  split
  · exact (ok _).mono (by decide) bs hbs
  · exact takeWord.map _ bs hbs
  · exact (ok _).mono (by decide) bs hbs
  · exact (takeByte.map _).mono (by decide) bs hbs
  · exact takeWord.map _ bs hbs

theorem withOperand (second : Byte) (mk : RM → Instr) : NeedsAtMost 2 (withOperand second mk) :=
  (takeRM second).map mk

theorem withRegRM (mk : RM → RegNum → Instr) : NeedsAtMost 3 (withRegRM mk) :=
  takeByte.andThen fun second => (takeRM second).andThen fun _ => ok _

theorem withFar (mk : Word → Word → Instr) : NeedsAtMost 4 (withFar mk) :=
  takeWord.andThen fun _ => takeWord.andThen fun _ => ok _

theorem grp1Arith (s w : Bit) (second : Byte) (mk : RM → ImmSW → Instr) : NeedsAtMost 4 (grp1Arith s w second mk) :=
  (takeRM second).andThen fun _ => (takeImmSW s w).andThen fun _ => ok _

/-- An operand, then an immediate. -/
theorem takeRM_takeImm (second : Byte) (w : Width) (mk : RM → Imm → Instr) :
    NeedsAtMost 4 fun bs => parseThen (Sys2Proof.takeRM second bs) fun rm bs =>
      parseThen (Sys2Proof.takeImm w bs) fun imm bs => .ok (mk rm imm, bs) :=
  (takeRM second).andThen fun _ => (takeImm w).andThen fun _ => ok _

/-! ## The rows of R120 that list every opcode -/

theorem plain (i : Instr) : NeedsAtMost 0 (plain i) := ok i

theorem withByte (mk : Byte → Instr) : NeedsAtMost 1 (withByte mk) := takeByte.map mk

theorem withWord (mk : Word → Instr) : NeedsAtMost 2 (withWord mk) := takeWord.map mk

theorem withImm (w : Width) (mk : Imm → Instr) : NeedsAtMost 2 (withImm w mk) := (takeImm w).map mk

theorem decodeEsc (x1 : Bits3) : NeedsAtMost 3 (decodeEsc x1) :=
  takeByte.andThen fun second => (takeRM second).andThen fun _ => ok _

theorem decodeRow1 : ∀ b3 b2 b1 b0, NeedsAtMost 5 (decodeRow1 b3 b2 b1 b0)
  | O, O, _, _ => (withRegRM _).mono
  | O, I, O, _ => (withImm _ _).mono
  | O, I, I, O => (plain _).mono
  | O, I, I, I => (plain _).mono
  | I, O, _, _ => (withRegRM _).mono
  | I, I, O, _ => (withImm _ _).mono
  | I, I, I, O => (plain _).mono
  | I, I, I, I => (plain _).mono

theorem decodeRow2 : ∀ b3 b2 b1 b0, NeedsAtMost 5 (decodeRow2 b3 b2 b1 b0)
  | O, O, _, _ => (withRegRM _).mono
  | O, I, O, _ => (withImm _ _).mono
  | O, I, I, O => (plain _).mono
  | O, I, I, I => (plain _).mono
  | I, O, _, _ => (withRegRM _).mono
  | I, I, O, _ => (withImm _ _).mono
  | I, I, I, O => (plain _).mono
  | I, I, I, I => (plain _).mono

theorem decodeRow3 : ∀ b3 b2 b1 b0, NeedsAtMost 5 (decodeRow3 b3 b2 b1 b0)
  | O, O, _, _ => (withRegRM _).mono
  | O, I, O, _ => (withImm _ _).mono
  | O, I, I, O => (plain _).mono
  | O, I, I, I => (plain _).mono
  | I, O, _, _ => (withRegRM _).mono
  | I, I, O, _ => (withImm _ _).mono
  | I, I, I, O => (plain _).mono
  | I, I, I, I => (plain _).mono

theorem decodeRow4 : ∀ b3 b2 b1 b0, NeedsAtMost 5 (decodeRow4 b3 b2 b1 b0)
  | O, _, _, _ => (plain _).mono
  | I, _, _, _ => (plain _).mono

theorem decodeRow5 : ∀ b3 b2 b1 b0, NeedsAtMost 5 (decodeRow5 b3 b2 b1 b0)
  | O, _, _, _ => (plain _).mono
  | I, _, _, _ => (plain _).mono

theorem decodeRow7 (b3 b2 b1 b0 : Bit) : NeedsAtMost 5 (decodeRow7 b3 b2 b1 b0) := by
  cases b3 <;> cases b2 <;> cases b1 <;> cases b0 <;> exact (withByte _).mono

theorem decodeRow9 : ∀ b3 b2 b1 b0, NeedsAtMost 5 (decodeRow9 b3 b2 b1 b0)
  | O, _, _, _ => (plain _).mono
  | I, O, O, O => (plain _).mono
  | I, O, O, I => (plain _).mono
  | I, O, I, O => (withFar _).mono
  | I, O, I, I => (plain _).mono
  | I, I, O, O => (plain _).mono
  | I, I, O, I => (plain _).mono
  | I, I, I, O => (plain _).mono
  | I, I, I, I => (plain _).mono

theorem decodeRowA : ∀ b3 b2 b1 b0, NeedsAtMost 5 (decodeRowA b3 b2 b1 b0)
  | O, O, O, _ => (withWord _).mono
  | O, O, I, _ => (withWord _).mono
  | O, I, O, _ => (plain _).mono
  | O, I, I, _ => (plain _).mono
  | I, O, O, _ => (withImm _ _).mono
  | I, O, I, _ => (plain _).mono
  | I, I, O, _ => (plain _).mono
  | I, I, I, _ => (plain _).mono

theorem decodeRowB (b3 b2 b1 b0 : Bit) : NeedsAtMost 5 (decodeRowB b3 b2 b1 b0) := (withImm _ _).mono

theorem decodeRowE : ∀ b3 b2 b1 b0, NeedsAtMost 5 (decodeRowE b3 b2 b1 b0)
  | O, O, O, O => (withByte _).mono
  | O, O, O, I => (withByte _).mono
  | O, O, I, O => (withByte _).mono
  | O, O, I, I => (withByte _).mono
  | O, I, O, _ => (withByte _).mono
  | O, I, I, _ => (withByte _).mono
  | I, O, O, O => (withWord _).mono
  | I, O, O, I => (withWord _).mono
  | I, O, I, O => (withFar _).mono
  | I, O, I, I => (withByte _).mono
  | I, I, O, _ => (plain _).mono
  | I, I, I, _ => (plain _).mono

end NeedsAtMost

/-! ## Parsers that refuse -/

/-- Given `n` bytes, `p` refuses exactly where `bad` holds. -/
def RefusesIff {α : Type} (n : Nat) (p : List Byte → Parse α) (bad : Prop) : Prop :=
  ∀ bs, n ≤ bs.length → ((∃ e, p bs = .error e) ↔ bad)

theorem NeedsAtMost.refusesIff {α : Type} {p : List Byte → Parse α} {m n : Nat} {bad : Prop} (h : NeedsAtMost m p)
    (hbad : ¬ bad) (hmn : m ≤ n := by decide) : RefusesIff n p bad := fun bs hbs => by
  obtain ⟨a, rest, hp, -⟩ := h bs (by omega)
  simp [hp, hbad]

theorem refusesIff_error {α : Type} {n : Nat} {bad : Prop} (e : DecodeError) (hbad : bad) :
    RefusesIff (α := α) n (fun _ => .error e) bad := fun _ _ => ⟨fun _ => hbad, fun _ => ⟨e, rfl⟩⟩

theorem RefusesIff.congr {α : Type} {n : Nat} {p : List Byte → Parse α} {bad bad' : Prop} (h : RefusesIff n p bad)
    (hb : bad ↔ bad') : RefusesIff n p bad' := fun bs hbs => (h bs hbs).trans hb

/-- Given four bytes after the second, `p` refuses exactly the second bytes in `bad`. -/
def RefusesSecond (p : List Byte → Parse Instr) (bad : Byte → Prop) : Prop :=
  ∀ second rest, 4 ≤ rest.length → ((∃ e, p (second :: rest) = .error e) ↔ bad second)

namespace RefusesSecond

variable {p : List Byte → Parse Instr} {bad bad' : Byte → Prop}

theorem takeByte {f : Byte → List Byte → Parse Instr} (hf : ∀ second, RefusesIff 4 (f second) (bad second)) :
    RefusesSecond (fun bs => parseThen (takeByte bs) f) bad := fun second rest hr => hf second rest hr

theorem congr (h : RefusesSecond p bad) (hb : ∀ second, bad second ↔ bad' second) : RefusesSecond p bad' :=
  fun second rest hr => (h second rest hr).trans (hb second)

theorem never {n : Nat} (h : NeedsAtMost n p) (hbad : ∀ second, ¬ bad second) (hn : n ≤ 5 := by decide) :
    RefusesSecond p bad := fun second rest hr => h.refusesIff (hbad second) hn (second :: rest) (by simpa using hr)

theorem always {e : DecodeError} (hbad : ∀ second, bad second) : RefusesSecond (fun _ => .error e) bad :=
  fun second _ _ => ⟨fun _ => hbad second, fun _ => ⟨e, rfl⟩⟩

end RefusesSecond

/-! ## The fields of a second byte, as numbers -/

/-- A three-bit field as a number. -/
def Bits3.toNat : Bits3 → Nat
  | .b000 => 0
  | .b001 => 1
  | .b010 => 2
  | .b011 => 3
  | .b100 => 4
  | .b101 => 5
  | .b110 => 6
  | .b111 => 7

theorem extension_eq (second : Byte) : extension second = (regField second).toNat := by
  revert second
  decide

theorem registerMod_iff (second : Byte) : registerMod second ↔ bitOf second 7 = I ∧ bitOf second 6 = I := by
  revert second
  unfold registerMod
  decide

/-- mod = 11 alone gives a register (R111). -/
theorem takeRM_reg {second : Byte} {bs rest : List Byte} {rm : RM} (h : takeRM second bs = .ok (rm, rest)) :
    registerMod second ↔ ∃ n, rm = .reg n := by
  rw [registerMod_iff]
  unfold takeRM at h
  split at h
  next h7 h6 =>
    cases h
    simp [h7, h6]
  next h7 h6 hrm =>
    obtain ⟨a, -, rfl⟩ := parseMap_eq_ok.mp h
    simp [h7]
  next h7 h6 hrm =>
    cases h
    simp [h7]
  next h7 h6 =>
    obtain ⟨b, -, rfl⟩ := parseMap_eq_ok.mp h
    simp [h7]
  next h7 h6 =>
    obtain ⟨v, -, rfl⟩ := parseMap_eq_ok.mp h
    simp [h6]

/-- A memory operand is needed: the register form is refused (R132). -/
theorem withPointer_refuses (op second : Byte) (mk : MemOp → Instr) :
    RefusesIff 4 (withPointer op second mk) (registerMod second) := fun bs hbs => by
  obtain ⟨rm, rest, hrm, -⟩ := NeedsAtMost.takeRM second bs (by omega)
  rw [takeRM_reg hrm, withPointer, hrm, parseThen_ok]
  cases rm <;> simp

theorem withRegMem_refuses (op : Byte) (mk : Reg16 → MemOp → Instr) :
    RefusesSecond (withRegMem op mk) registerMod :=
  RefusesSecond.takeByte fun second => withPointer_refuses op second _

/-! ## The groups of R121 -/

theorem grp1Logic_refuses (op : Byte) (s w : Bit) (second : Byte) (mk : RM → Imm → Instr) :
    RefusesIff 4 (grp1Logic op s w second mk) (s = I) :=
  match s with
  | I => refusesIff_error _ rfl
  | O => (NeedsAtMost.takeRM_takeImm second _ mk).refusesIff (by decide)

theorem decodeGrp1_refuses (op : Byte) (s w : Bit) :
    RefusesSecond (decodeGrp1 op s w) fun second =>
      s = I ∧ (extension second = 1 ∨ extension second = 4 ∨ extension second = 6) :=
  RefusesSecond.takeByte fun second => by
    rw [extension_eq]
    cases regField second
    case b001 | b100 | b110 => exact (grp1Logic_refuses op s w second _).congr (by simp [Bits3.toNat])
    all_goals exact (NeedsAtMost.grp1Arith s w second _).refusesIff (by simp [Bits3.toNat])

theorem decodeGrp2_refuses (op : Byte) (v : Count) (w : Width) :
    RefusesSecond (decodeGrp2 op v w) fun second => extension second = 6 :=
  RefusesSecond.takeByte fun second => by
    rw [extension_eq]
    cases regField second
    case b110 => exact refusesIff_error _ rfl
    all_goals exact (NeedsAtMost.withOperand second _).refusesIff (by decide)

theorem decodeGrp3_refuses (op : Byte) (w : Width) :
    RefusesSecond (decodeGrp3 op w) fun second => extension second = 1 :=
  RefusesSecond.takeByte fun second => by
    rw [extension_eq]
    cases regField second
    case b000 => exact (NeedsAtMost.takeRM_takeImm second w _).refusesIff (by decide)
    case b001 => exact refusesIff_error _ rfl
    all_goals exact (NeedsAtMost.withOperand second _).refusesIff (by decide)

theorem decodeGrp4_refuses (op : Byte) : RefusesSecond (decodeGrp4 op) fun second => 2 ≤ extension second :=
  RefusesSecond.takeByte fun second => by
    rw [extension_eq]
    cases regField second
    case b000 | b001 => exact (NeedsAtMost.withOperand second _).refusesIff (by decide)
    all_goals exact refusesIff_error _ (by decide)

theorem decodeGrp5_refuses (op : Byte) :
    RefusesSecond (decodeGrp5 op) fun second =>
      extension second = 7 ∨ (extension second = 3 ∨ extension second = 5) ∧ registerMod second :=
  RefusesSecond.takeByte fun second => by
    rw [extension_eq]
    cases regField second
    case b011 | b101 => exact (withPointer_refuses op second _).congr (by simp [Bits3.toNat])
    case b111 => exact refusesIff_error _ (.inl rfl)
    all_goals exact (NeedsAtMost.withOperand second _).refusesIff (by simp [Bits3.toNat])

theorem decodeExt0_refuses (op : Byte) {p : Byte → List Byte → Parse Instr}
    (hp : ∀ second, NeedsAtMost 4 (p second)) : RefusesSecond (decodeExt0 op p) fun second => extension second ≠ 0 :=
  RefusesSecond.takeByte fun second => by
    rw [extension_eq]
    cases regField second
    case b000 => exact (hp second).refusesIff (by decide)
    all_goals exact refusesIff_error _ (by decide)

/-- Bit 5 of the second byte is the upper half of the extensions (R121). -/
theorem extension_bits (second : Byte) :
    (4 ≤ extension second ↔ bitOf second 5 = I)
      ∧ (extension second = 1 ↔ bitOf second 5 = O ∧ sregOf (bitOf second 4) (bitOf second 3) = .cs) := by
  revert second
  decide

theorem decodeMovRmSreg_refuses (op : Byte) :
    RefusesSecond (decodeMovRmSreg op) fun second => 4 ≤ extension second :=
  RefusesSecond.takeByte fun second => by
    rw [(extension_bits second).1]
    cases bitOf second 5
    case I => exact refusesIff_error _ rfl
    case O => exact ((NeedsAtMost.takeRM second).map _).refusesIff (by decide)

theorem decodeMovSregRm_refuses (op : Byte) :
    RefusesSecond (decodeMovSregRm op) fun second => 4 ≤ extension second ∨ extension second = 1 :=
  RefusesSecond.takeByte fun second => by
    obtain ⟨hhigh, hone⟩ := extension_bits second
    rw [hhigh, hone]
    cases bitOf second 5
    case I => exact refusesIff_error _ (.inl rfl)
    case O =>
      cases sregOf (bitOf second 4) (bitOf second 3)
      case cs => exact refusesIff_error _ (.inr ⟨rfl, rfl⟩)
      all_goals exact (NeedsAtMost.withOperand second _).refusesIff (by decide)

theorem decodeAdjust_refuses (op : Byte) (i : Instr) :
    RefusesSecond (decodeAdjust op i) fun second => second.toNat ≠ 0x0A :=
  RefusesSecond.takeByte fun second => by
    have hbase : second = 0x0A#8 ↔ second.toNat = 0x0A := by bv_omega
    split
    next h => exact ((NeedsAtMost.ok i).refusesIff fun hne => hne (hbase.mp h))
    next h => exact refusesIff_error _ fun he => h (hbase.mpr he)

/-! ## The opcode byte as a number -/

@[simp] theorem Bit.toBool_O : O.toBool = false := rfl

@[simp] theorem Bit.toBool_I : I.toBool = true := rfl

@[simp] theorem toNat_byteOf (b7 b6 b5 b4 b3 b2 b1 b0 : Bit) :
    (byteOf b7 b6 b5 b4 b3 b2 b1 b0).toNat =
      128 * b7.toBool.toNat + 64 * b6.toBool.toNat + 32 * b5.toBool.toNat + 16 * b4.toBool.toNat
        + 8 * b3.toBool.toNat + 4 * b2.toBool.toNat + 2 * b1.toBool.toNat + b0.toBool.toNat := by
  cases b7 <;> cases b6 <;> cases b5 <;> cases b4 <;> cases b3 <;> cases b2 <;> cases b1 <;> cases b0 <;> rfl

/-- The row of an opcode byte is its high four bits. -/
theorem row_byteOf (b7 b6 b5 b4 b3 b2 b1 b0 : Bit) :
    (byteOf b7 b6 b5 b4 b3 b2 b1 b0).toNat / 16 =
      8 * b7.toBool.toNat + 4 * b6.toBool.toNat + 2 * b5.toBool.toNat + b4.toBool.toNat := by
  have h3 := b3.toBool.toNat_le
  have h2 := b2.toBool.toNat_le
  have h1 := b1.toBool.toNat_le
  have h0 := b0.toBool.toNat_le
  rw [toNat_byteOf]
  omega

/-- Rows 1 to 5, 7, 9 to 0BH and 0EH hold no unlisted encoding (R130 to R132). -/
theorem not_unlisted_of_row {op : Byte} (h : op.toNat / 16 ∉ [0, 6, 8, 12, 13, 15]) (second : Byte) :
    ¬ UnlistedEncoding op second := fun hu => by
  simp only [List.mem_cons, List.not_mem_nil, or_false, not_or] at h
  unfold UnlistedEncoding at hu
  omega

/-- Row 6 is unlisted (R130). -/
theorem unlisted_of_row6 {op : Byte} (h : op.toNat / 16 = 6) (second : Byte) : UnlistedEncoding op second :=
  .inl (by omega)

/-! ## The rows of R120 with unlisted encodings -/

namespace RefusesSecond

theorem decodeRow0 : ∀ b3 b2 b1 b0,
    RefusesSecond (decodeRow0 b3 b2 b1 b0) (UnlistedEncoding (byteOf O O O O b3 b2 b1 b0))
  | O, O, d, w => never (.withRegRM _) fun second => by
    cases d <;> cases w <;> simp [UnlistedEncoding]
  | O, I, O, w => never (.withImm _ _) fun second => by
    cases w <;> simp [UnlistedEncoding]
  | O, I, I, O => never (.plain _) (by simp [UnlistedEncoding])
  | O, I, I, I => never (.plain _) (by simp [UnlistedEncoding])
  | I, O, d, w => never (.withRegRM _) fun second => by
    cases d <;> cases w <;> simp [UnlistedEncoding]
  | I, I, O, w => never (.withImm _ _) fun second => by
    cases w <;> simp [UnlistedEncoding]
  | I, I, I, O => never (.plain _) (by simp [UnlistedEncoding])
  | I, I, I, I => always (by simp [UnlistedEncoding])

theorem decodeRow8 (o : Byte) : ∀ b3 b2 b1 b0,
    RefusesSecond (decodeRow8 o b3 b2 b1 b0) (UnlistedEncoding (byteOf I O O O b3 b2 b1 b0))
  | O, O, s, w => (decodeGrp1_refuses o s w).congr fun second => by
    cases s <;> cases w <;> simp [UnlistedEncoding]
  | O, I, O, w => never (.withRegRM _) fun second => by
    cases w <;> simp [UnlistedEncoding]
  | O, I, I, w => never (.withRegRM _) fun second => by
    cases w <;> simp [UnlistedEncoding]
  | I, O, d, w => never (.withRegRM _) fun second => by
    cases d <;> cases w <;> simp [UnlistedEncoding]
  | I, I, O, O => (decodeMovRmSreg_refuses o).congr (by simp [UnlistedEncoding])
  | I, I, O, I => (withRegMem_refuses o _).congr (by simp [UnlistedEncoding])
  | I, I, I, O => (decodeMovSregRm_refuses o).congr (by simp [UnlistedEncoding])
  | I, I, I, I => (decodeExt0_refuses o fun second => ((NeedsAtMost.takeRM second).map _).mono).congr
    (by simp [UnlistedEncoding])

theorem decodeRowC (o : Byte) : ∀ b3 b2 b1 b0,
    RefusesSecond (decodeRowC o b3 b2 b1 b0) (UnlistedEncoding (byteOf I I O O b3 b2 b1 b0))
  | O, O, O, b0 => always fun second => by cases b0 <;> simp [UnlistedEncoding]
  | O, O, I, O => never (.withWord _) (by simp [UnlistedEncoding])
  | O, O, I, I => never (.plain _) (by simp [UnlistedEncoding])
  | O, I, O, O => (withRegMem_refuses o _).congr (by simp [UnlistedEncoding])
  | O, I, O, I => (withRegMem_refuses o _).congr (by simp [UnlistedEncoding])
  | O, I, I, w => (decodeExt0_refuses o fun second => .takeRM_takeImm second _ _).congr fun second => by
    cases w <;> simp [UnlistedEncoding]
  | I, O, O, b0 => always fun second => by cases b0 <;> simp [UnlistedEncoding]
  | I, O, I, O => never (.withWord _) (by simp [UnlistedEncoding])
  | I, O, I, I => never (.plain _) (by simp [UnlistedEncoding])
  | I, I, O, O => never (.plain _) (by simp [UnlistedEncoding])
  | I, I, O, I => never (.withByte _) (by simp [UnlistedEncoding])
  | I, I, I, O => never (.plain _) (by simp [UnlistedEncoding])
  | I, I, I, I => never (.plain _) (by simp [UnlistedEncoding])

theorem decodeRowD (o : Byte) : ∀ b3 b2 b1 b0,
    RefusesSecond (decodeRowD o b3 b2 b1 b0) (UnlistedEncoding (byteOf I I O I b3 b2 b1 b0))
  | O, O, v, w => (decodeGrp2_refuses o _ _).congr fun second => by
    cases v <;> cases w <;> simp [UnlistedEncoding]
  | O, I, O, O => (decodeAdjust_refuses o _).congr (by simp [UnlistedEncoding])
  | O, I, O, I => (decodeAdjust_refuses o _).congr (by simp [UnlistedEncoding])
  | O, I, I, O => always (by simp [UnlistedEncoding])
  | O, I, I, I => never (.plain _) (by simp [UnlistedEncoding])
  | I, x2, x1, x0 => never (.decodeEsc _) fun second => by
    cases x2 <;> cases x1 <;> cases x0 <;> simp [UnlistedEncoding]

theorem decodeRowF (o : Byte) : ∀ b3 b2 b1 b0,
    RefusesSecond (decodeRowF o b3 b2 b1 b0) (UnlistedEncoding (byteOf I I I I b3 b2 b1 b0))
  | O, O, O, O => never (.plain _) (by simp [UnlistedEncoding])
  | O, O, O, I => always (by simp [UnlistedEncoding])
  | O, O, I, z => never (.plain _) fun second => by
    cases z <;> simp [UnlistedEncoding]
  | O, I, O, O => never (.plain _) (by simp [UnlistedEncoding])
  | O, I, O, I => never (.plain _) (by simp [UnlistedEncoding])
  | O, I, I, w => (decodeGrp3_refuses o _).congr fun second => by
    cases w <;> simp [UnlistedEncoding]
  | I, O, O, O => never (.plain _) (by simp [UnlistedEncoding])
  | I, O, O, I => never (.plain _) (by simp [UnlistedEncoding])
  | I, O, I, O => never (.plain _) (by simp [UnlistedEncoding])
  | I, O, I, I => never (.plain _) (by simp [UnlistedEncoding])
  | I, I, O, O => never (.plain _) (by simp [UnlistedEncoding])
  | I, I, O, I => never (.plain _) (by simp [UnlistedEncoding])
  | I, I, I, O => (decodeGrp4_refuses o).congr (by simp [UnlistedEncoding])
  | I, I, I, I => (decodeGrp5_refuses o).congr (by simp [UnlistedEncoding])

/-- A row that lists every opcode refuses nothing. -/
theorem ofListedRow {p : Bit → Bit → Bit → Bit → List Byte → Parse Instr} {b7 b6 b5 b4 : Bit}
    (hp : ∀ b3 b2 b1 b0, NeedsAtMost 5 (p b3 b2 b1 b0))
    (hrow : 8 * b7.toBool.toNat + 4 * b6.toBool.toNat + 2 * b5.toBool.toNat + b4.toBool.toNat
      ∉ [0, 6, 8, 12, 13, 15] := by decide) :
    ∀ b3 b2 b1 b0, RefusesSecond (p b3 b2 b1 b0) (UnlistedEncoding (byteOf b7 b6 b5 b4 b3 b2 b1 b0)) :=
  fun b3 b2 b1 b0 => never (hp b3 b2 b1 b0) (not_unlisted_of_row (by rwa [row_byteOf]))

/-- The opcode map refuses exactly the unlisted encodings (R130, R131, R132). -/
theorem decodeOpcode (op : Byte) : RefusesSecond (decodeOpcode op) (UnlistedEncoding op) :=
  decodeOpcode_byRow (P := fun op p => RefusesSecond p (UnlistedEncoding op)) decodeRow0 (ofListedRow .decodeRow1)
    (ofListedRow .decodeRow2) (ofListedRow .decodeRow3) (ofListedRow .decodeRow4) (ofListedRow .decodeRow5)
    (fun _ _ _ _ _ => always (unlisted_of_row6 (row_byteOf ..))) (ofListedRow .decodeRow7) decodeRow8
    (ofListedRow .decodeRow9) (ofListedRow .decodeRowA) (ofListedRow .decodeRowB) decodeRowC decodeRowD
    (ofListedRow .decodeRowE) decodeRowF op

end RefusesSecond

/-- Settles O3: given enough bytes, the decoder refuses exactly the encodings of R130, R131 and R132. -/
theorem refusesExactlyUnlisted : Obligations.RefusesExactlyUnlisted := fun op second rest hr =>
  RefusesSecond.decodeOpcode op second rest hr

end Sys2Proof
end

section
/-! PROOFS. The general MOVs (O17), and HLT, WAIT, ESC and the prefixes (O52). -/

namespace Sys2Proof.Machine

/-- Settles O17: each general MOV assigns its source to its destination, a source in memory being read first. -/
theorem movResults : Obligations.MovResults := fun s => by
  have now := Reading.refl s
  refine ⟨fun w rm reg => ⟨_, rfl, State.writeLoc_assigns now w (s.loc rm) _⟩, fun w rm reg => ?_,
    fun rm imm => ⟨_, rfl, State.writeLoc_assigns now imm.width (s.loc rm) _⟩,
    fun reg imm => ⟨_, rfl, State.writeLoc_assigns now imm.width (.reg reg) _⟩, fun w addr => ?_,
    fun w addr => ⟨_, rfl, State.writeLoc_assigns now w (.mem s.dataSeg (s.sreg s.dataSeg) addr) _⟩⟩
  · exact ⟨_, _, s.readLoc_is w (s.loc rm), rfl, State.writeLoc_assigns (s.readLoc_reading w _) w (.reg reg) _⟩
  · exact ⟨_, _, s.memRead_reads s.dataSeg _ addr w, rfl,
      State.writeLoc_assigns (s.memRead_reading s.dataSeg _ addr w) w (.reg .axAl) _⟩

/-- A word read is two Read Memory cycles, the low byte's first (R66, R77). -/
theorem State.memRead_word_dataCycles (s : State) (sr : SReg) (seg off : Word) :
    (s.memRead sr seg off .word).2.dataCycles =
      s.cycle .memRead (segStatusOf sr) (some (phys seg (off + 1#16))) (some (highByte (s.memRead sr seg off .word).1))
        :: s.cycle .memRead (segStatusOf sr) (some (phys seg off)) (some (lowByte (s.memRead sr seg off .word).1))
        :: s.dataCycles := by
  have hlow := s.readPhys_dataCycles .free (segStatusOf sr) (phys seg off)
  have hhigh := State.readPhys_dataCycles (s.readPhys .free (segStatusOf sr) (phys seg off)).2 .wordHalf
    (segStatusOf sr) (phys seg (off + 1#16))
  rw [hlow] at hhigh
  simp only [State.memRead, lowByte_wordOf, highByte_wordOf]
  exact hhigh

/-- The TEST level of a sample is the level WAIT examines (R409). -/
theorem State.testLow_of_pins {s : State} {p : PinSample} (h : s.pins = some p) : s.testLow = p.testLow := by
  rw [State.testLow, h]

/-- A free value drawn is no more than traffic. -/
theorem Reading.ofDraws (s : State) (n : Nat) : Reading s { s with draws := n } :=
  ⟨⟨rfl, id, id, fun _ h => h, id⟩, SameMemory.refl s⟩

/-- A reading leaves registers, memory, flags and control. -/
theorem Reading.setsRegs {s t : State} (h : Reading s t) : SetsRegs s t s :=
  ⟨h.sameRegs, h.same, h.flags, h.toTraffic.sameControl⟩

/-- Settles O52: HLT shows the halt status once, WAIT goes by TEST, ESC reads and drops a word, and the prefixes set
their effects. -/
theorem processorControlResults : Obligations.ProcessorControlResults := fun s => by
  refine ⟨⟨_, rfl, rfl, rfl, rfl, rfl, ?_⟩,
    ⟨s.testLow, _, fun p hp => State.testLow_of_pins hp, rfl, rfl, rfl, ?_⟩, fun _ _ _ => rfl, fun x1 x2 m => ?_,
    fun _ => rfl, rfl, fun _ => rfl⟩
  · obtain ⟨hregs, hmem, hflags, hcontrol⟩ := Reading.setsRegs (State.logCycle_reading { s with halted := true }
      (s.cycle .halt .codeOrNone none none))
    exact ⟨fun r => (hregs r).trans (by cases r <;> rfl), hmem, hflags, hcontrol⟩
  · have h : Reading { s with waiting := !s.testLow, IP := if s.testLow then s.IP else s.IP - 1#16 } _ :=
      Reading.ofDraws _ (s.draws + if s.pins = none then 1 else 0)
    obtain ⟨hregs, hmem, hflags, hcontrol⟩ := h.setsRegs
    exact ⟨fun r => (hregs r).trans (by cases r <;> rfl), hmem, hflags, hcontrol⟩
  · exact ⟨_, _, s.memRead_reads (s.segOf m) _ (s.ea m) .word, rfl, (s.memRead_reading _ _ _ _).setsRegs,
      s.memRead_word_dataCycles _ _ _⟩

end Sys2Proof.Machine
end

section
/-! PROOFS. The rest of the data transfers: MOV with a segment register, XCHG, and XLAT, LEA, LDS and LES (O18, O21,
O24). -/

namespace Sys2Proof.Machine

/-- Settles O18: a segment register is loaded from an operand read first, or assigned to one. -/
theorem segmentMoveResults : Obligations.SegmentMoveResults := fun s rm =>
  ⟨fun sr => ⟨_, _, s.readLoc_is .word (s.loc rm), rfl, State.setDataSReg_loads (s.readLoc_reading .word _) sr _⟩,
    fun _ => ⟨_, rfl, State.writeLoc_assigns (Reading.refl s) .word (s.loc rm) _⟩⟩

/-! ## One more register written -/

/-- Registers of different numbers are different byte registers (R22). -/
theorem RegNum.eq_of_reg8 {n m : RegNum} : n.reg8 = m.reg8 → n = m := by
  cases n <;> cases m <;> decide

/-- Registers of different numbers are different word registers (R21). -/
theorem RegNum.eq_of_reg16 {n m : RegNum} : n.reg16 = m.reg16 → n = m := by
  cases n <;> cases m <;> decide

/-- A write of a register leaves the others of its size alone (R21, R22). -/
theorem State.reg_setReg_other (s : State) (w : Width) {n m : RegNum} (v : BitVec w.bits) (h : m ≠ n) :
    (s.setReg w n v).reg w m = s.reg w m := by
  cases w with
  | byte => exact s.reg8_setReg8_other n.reg8 m.reg8 v (mt RegNum.eq_of_reg8 h)
  | word => exact s.reg16_setReg16_other n.reg16 m.reg16 v (mt RegNum.eq_of_reg16 h)

/-- A word register read by its number (R21). -/
theorem State.reg_regNumber (s : State) (r : Reg16) : s.reg .word (regNumber r) = s.reg16 r := by
  cases r <;> rfl

section
variable {s t : State} (w : Width) (n : RegNum) (v : BitVec w.bits)

/-- Memory after stores does not depend on a register written later. -/
theorem MemoryAfter.setReg {f : PAddr → Option Byte} (h : MemoryAfter s t f) : MemoryAfter s (t.setReg w n v) f := by
  obtain ⟨_, _, _, _, _, _, _, _, e⟩ := t.setReg_form w n v
  rw [e]
  exact h

/-- A register is no part of the control state. -/
theorem SameControl.setReg (h : SameControl s t) : SameControl s (t.setReg w n v) := by
  obtain ⟨_, _, _, _, _, _, _, _, e⟩ := t.setReg_form w n v
  rw [e]
  exact h

theorem State.setReg_flags : (s.setReg w n v).flags = s.flags := by
  obtain ⟨_, _, _, _, _, _, _, _, e⟩ := s.setReg_form w n v
  rw [e]

/-- One more register written where registers were set. -/
theorem SetsRegs.setReg {u : State} (h : SetsRegs s t u) : SetsRegs s (t.setReg w n v) (u.setReg w n v) := by
  obtain ⟨hregs, hmem, hflags, hcontrol⟩ := h
  exact ⟨hregs.setReg w n v, MemoryAfter.setReg w n v (f := fun _ => none) hmem, (State.setReg_flags w n v).trans hflags,
    hcontrol.setReg w n v⟩

end

/-- The same for a word register by its name (R21). -/
theorem SetsRegs.setReg16 {s t u : State} (h : SetsRegs s t u) (r : Reg16) (v : Word) :
    SetsRegs s (t.setReg16 r v) (u.setReg16 r v) := by
  rw [State.setReg16_eq_setReg, State.setReg16_eq_setReg]
  exact h.setReg .word (regNumber r) v

/-! ## XCHG -/

/-- Two registers that have changed places hold each other's value, one and the same register its own (R164). -/
theorem State.exchange_regs (s : State) (w : Width) (n reg : RegNum) :
    ((s.setReg w n (s.reg w reg)).setReg w reg (s.reg w n)).reg w reg = s.reg w n
      ∧ ((s.setReg w n (s.reg w reg)).setReg w reg (s.reg w n)).reg w n = s.reg w reg := by
  refine ⟨State.reg_setReg_same _ w reg _, ?_⟩
  by_cases h : n = reg
  · subst h
    exact State.reg_setReg_same _ w n _
  · rw [State.reg_setReg_other _ w _ h, State.reg_setReg_same]

/-- Settles O21: each operand is written with what the other held; an operand in memory is read before. -/
theorem xchgResults : Obligations.XchgResults := fun s => by
  have now := (Reading.refl s).setsRegs
  refine ⟨fun w n reg => ⟨_, rfl, (now.setReg w n _).setReg w reg _, s.exchange_regs w n reg⟩,
    fun w m reg => ⟨_, _, s.memRead_reads (s.segOf m) _ _ w, rfl, ?_⟩, fun r => ⟨_, rfl, ?_⟩⟩
  · obtain ⟨⟨hregs, hstores⟩, hflags, hcontrol⟩ :=
      State.writeLoc_assigns (s.memRead_reading (s.segOf m) _ _ w) w (s.memLoc m) (s.reg w reg)
    exact ⟨hregs.setReg w reg _, MemoryAfter.setReg w reg _ hstores, (State.setReg_flags w reg _).trans hflags,
      hcontrol.setReg w reg _⟩
  · obtain ⟨hregs, hmem, hflags, hcontrol⟩ := (now.setReg16 .ax (s.reg16 r)).setReg16 r s.AX
    have hex := s.exchange_regs .word .axAl (regNumber r)
    rw [← State.setReg16_eq_setReg, State.reg_regNumber, State.reg_regNumber] at hex
    obtain ⟨hr, hax⟩ := hex
    refine ⟨hax, hr, fun q hq => ?_, hmem, hflags, hcontrol⟩
    obtain ⟨hqax, hqr⟩ : q ≠ .ax ∧ q ≠ r := by simpa using hq
    rw [State.reg16_setReg16_other _ _ _ _ hqr, State.reg16_setReg16_other _ _ _ _ hqax]

/-! ## XLAT, LEA, LDS and LES -/

/-- A segment register loaded, with no shadow, where registers were set (R176, R177). -/
theorem SetsRegs.setDataSReg {s t u : State} (h : SetsRegs s t u) (sr : DataSReg) (v : Word) :
    SameRegs u (t.setDataSReg sr v) ∧ (t.setDataSReg sr v).sreg sr.toSReg = v
      ∧ (∀ q, q ≠ sr.toSReg → (t.setDataSReg sr v).sreg q = s.sreg q) ∧ (t.setDataSReg sr v).IP = s.IP
      ∧ SameMemory s (t.setDataSReg sr v) ∧ (t.setDataSReg sr v).flags = s.flags
      ∧ SameChip s (t.setDataSReg sr v) := by
  obtain ⟨hregs, hmem, hflags, ⟨hes, hss, hds⟩, hcs, hip, hchip⟩ := h
  have hsreg : ∀ q, t.sreg q = s.sreg q := fun q => by
    cases q with
    | es => exact hes
    | cs => exact hcs
    | ss => exact hss
    | ds => exact hds
  have hloaded : (t.setDataSReg sr v).sreg sr.toSReg = v := by cases sr <;> rfl
  have hother : ∀ q, q ≠ sr.toSReg → (t.setDataSReg sr v).sreg q = s.sreg q := fun q hq =>
    (t.sreg_setDataSReg_other sr q v hq).trans (hsreg q)
  obtain ⟨_, _, _, e⟩ := t.setDataSReg_form sr v
  rw [e] at hloaded hother ⊢
  exact ⟨hregs.trans fun r => by cases r <;> rfl, hloaded, hother, hip, hmem, hflags, hchip⟩

/-- Both words of a far pointer are read before its offset is written to a register (R176). -/
theorem State.readPointer_setsReg (s : State) (r : Reg16) (m : MemOp) :
    SetsRegs s ((s.readPointer m).2.2.setReg16 r (s.readPointer m).1) (s.setReg16 r (s.readPointer m).1) :=
  (s.readPointer_reading m).setsRegs.setReg16 r _

/-- Settles O24: XLAT reads a byte into AL, LEA writes an offset and nothing else, and LDS and LES read a pointer,
then write its offset and its segment. -/
theorem addressLoads : Obligations.AddressLoads := fun s => by
  refine ⟨⟨_, _, s.memRead_reads s.dataSeg _ _ .byte, rfl,
      (s.memRead_reading s.dataSeg _ _ .byte).setsRegs.setReg .byte .axAl _⟩,
    fun r m => ⟨_, rfl, (Reading.refl s).setsRegs.setReg16 r _, ?_⟩,
    fun r m => ⟨_, _, _, (s.readPointer_reads m).1, (s.readPointer_reads m).2, rfl, ?_⟩,
    fun r m => ⟨_, _, _, (s.readPointer_reads m).1, (s.readPointer_reads m).2, rfl, ?_⟩⟩
  · obtain ⟨_, _, _, _, _, _, _, _, e⟩ := s.setReg16_form r (s.ea m)
    rw [e]
  · obtain ⟨hregs, hds, hother, hrest⟩ := (s.readPointer_setsReg r m).setDataSReg .ds (s.readPointer m).2.1
    exact ⟨hregs, hds, hother .es (by decide), hother .ss (by decide), hother .cs (by decide), hrest⟩
  · obtain ⟨hregs, hes, hother, hrest⟩ := (s.readPointer_setsReg r m).setDataSReg .es (s.readPointer m).2.1
    exact ⟨hregs, hes, hother .ds (by decide), hother .ss (by decide), hother .cs (by decide), hrest⟩

end Sys2Proof.Machine
end


section
/-! PROOFS. What CMP leaves for the conditional jumps, and INC, DEC and NEG (O28, O29). -/

namespace Sys2Proof.Machine

/-! ## CMP and the conditional jumps -/

/-- The flags of a difference order its operands: ZF says equal, CF below as unsigned numbers, and SF other than OF
less as signed ones (R12, R353 to R366). -/
theorem SubtractsTo.orders {n : Nat} (hn : 0 < n) {f : Flags} {a b r : BitVec n} (h : SubtractsTo f a b 0 r) :
    (f.ZF = true ↔ a = b) ∧ (f.CF = true ↔ a.toNat < b.toNat) ∧ (f.SF ≠ f.OF ↔ a.toInt < b.toInt) := by
  obtain ⟨hr, ⟨hsf, hzf, -⟩, hcf, -, hof⟩ := h
  have hdiff := subResult_cases hn a b false
  have he : r = subResult a b false :=
    BitVec.eq_of_toNat_eq (Int.natCast_inj.mp (hr.trans (subResult_toNat hn a b false).symm))
  have ha := toInt_cases hn a
  have hb := toInt_cases hn b
  have hd := toInt_cases hn r
  have hc : carryIn false = 0 := rfl
  rw [← he] at hdiff
  rw [fits_iff] at hof
  rw [ne_eq, Bool.eq_iff_iff (a := f.SF), hzf, hcf, hsf, hof, ← BitVec.toNat_inj]
  generalize 2 ^ (n - 1) = M at *
  omega

/-- Settles O28: the flags of the difference, as each of the ten jumps reads them. -/
theorem compareThenJump : Obligations.CompareThenJump := fun s w n m disp => by
  obtain ⟨-, -, hcmp, -⟩ := subtractionResults s
  obtain ⟨t, ht, a, r, ha, hr, -⟩ := hcmp w (.reg n) m
  refine ⟨t, ht, ?_⟩
  rintro _ _ rfl rfl
  obtain rfl : a = s.reg w n := ha
  obtain ⟨heq, hbelow, hless⟩ := hr.orders (width_bits_pos w)
  generalize s.reg w n = a at *
  generalize s.reg w m = b at *
  have hnat : a = b ↔ a.toNat = b.toNat := BitVec.toNat_inj.symm
  have hint : a = b ↔ a.toInt = b.toInt := BitVec.toInt_inj.symm
  have jump : ∀ (c : Bool) (p : Prop) [Decidable p], (c = true ↔ p) →
      Host.Outcome.next (φ := Fault) (ρ := Refusal) (t.jumpIf c disp) = .next (t.jumpIf (decide p) disp) :=
    fun c p _ h => by rw [Bool.eq_iff_iff.mpr (h.trans decide_eq_true_iff.symm)]
  have negated : ∀ {c : Bool} {p : Prop}, (c = true ↔ p) → ((!c) = true ↔ ¬ p) := fun h => by simp [← h]
  have differ : (t.flags.SF != t.flags.OF) = true ↔ a.toInt < b.toInt := bne_iff_ne.trans hless
  have alike : (t.flags.SF == t.flags.OF) = true ↔ ¬ a.toInt < b.toInt := by
    rw [beq_iff_eq, ← hless, Classical.not_not]
  refine ⟨jump _ _ heq, jump _ _ (negated heq), jump _ _ hbelow, jump _ _ ((negated hbelow).trans Nat.not_lt),
    jump _ _ ?be, jump _ _ ?nbe, jump _ _ differ, jump _ _ (alike.trans Int.not_lt), jump _ _ ?le, jump _ _ ?nle⟩
  case be =>
    rw [Bool.or_eq_true, hbelow, heq, hnat]
    omega
  case nbe =>
    rw [Bool.and_eq_true, negated hbelow, negated heq, hnat]
    omega
  case le =>
    rw [Bool.or_eq_true, differ, heq, hint]
    omega
  case nle =>
    rw [Bool.and_eq_true, alike, negated heq, hint]
    omega

/-! ## INC, DEC and NEG -/

/-- With no carry or borrow coming in the result of `add_n` is the sum, and of `sub_n` the difference (R12). -/
theorem addResult_false {n : Nat} (a b : BitVec n) : addResult a b false = a + b :=
  BitVec.eq_of_toNat_eq (by rw [addResult_toNat, BitVec.toNat_add]; rfl)

theorem subResult_false {n : Nat} (a b : BitVec n) : subResult a b false = a - b := BitVec.sub_zero _

/-- One more than an operand, with the flags of the sum but CF (R207). -/
theorem incFlags_addsTo {n : Nat} (hn : 0 < n) (f : Flags) (a : BitVec n) :
    (incFlags f a).CF = f.CF ∧ ∃ c, AddsTo { incFlags f a with CF := c } a 1#n 0 (a + 1#n) :=
  ⟨rfl, _, addResult_false a 1#n ▸ Flags.ofAdd_addsTo hn f a 1#n false⟩

/-- One less than an operand, with the flags of the difference but CF (R217). -/
theorem decFlags_subtractsTo {n : Nat} (hn : 0 < n) (f : Flags) (a : BitVec n) :
    (decFlags f a).CF = f.CF ∧ ∃ c, SubtractsTo { decFlags f a with CF := c } a 1#n 0 (a - 1#n) :=
  ⟨rfl, _, subResult_false a 1#n ▸ Flags.ofSub_subtractsTo hn f a 1#n false⟩

/-- Zero less an operand (R219). -/
theorem Flags.ofSub_negates {n : Nat} (hn : 0 < n) (f : Flags) (a : BitVec n) :
    SubtractsTo (f.ofSub 0#n a false) 0#n a 0 (-a) := by
  rw [← BitVec.zero_sub, ← subResult_false]
  exact Flags.ofSub_subtractsTo hn f 0#n a false

/-- An operand read and written back changed, under new flags (R207, R217, R219). -/
theorem State.rewritten_effect (s : State) (w : Width) (l : Loc) (f : Flags) (r : BitVec w.bits)
    {rel : BitVec w.bits → BitVec w.bits → Flags → Prop} (hc : SameControlFlags s.flags f)
    (hrel : rel (s.readLoc w l).1 r f) :
    AluEffect s ({ (s.readLoc w l).2 with flags := f }.writeLoc w l r) w l true rel := by
  have h := s.readLoc_reading w l
  obtain ⟨_, _, _, _, _, _, _, _, k⟩ := State.writeLoc_after h f (s.readLoc w l).2.draws w l r
  have hw := (State.writeLoc_writes { (s.readLoc w l).2 with flags := f } w l r).ofFlags.before h
  have hf : ({ (s.readLoc w l).2 with flags := f }.writeLoc w l r).flags = f := k.flags
  refine ⟨_, r, s.readLoc_is w l, ?_, ?_, hw, k.sameControl⟩
  · rw [hf]
    exact hrel
  · rw [hf]
    exact hc

/-- INC and DEC of a word register by its name are those of the register by its number (R208, R218). -/
theorem exec_incDecReg (s : State) (r : Reg16) :
    exec (.incReg r) s = exec (.incRm .word (.reg (regNumber r))) s
      ∧ exec (.decReg r) s = exec (.decRm .word (.reg (regNumber r))) s := by
  cases r <;> exact ⟨rfl, rfl⟩

/-- Settles O29: INC, DEC and NEG of an operand read, and the short forms of INC and DEC by the long ones. -/
theorem incDecNegResults : Obligations.IncDecNegResults := fun s => by
  have inc : ∀ w rm, ∃ t, exec (.incRm w rm) s = .next t ∧ AluEffect s t w (s.loc rm) true fun a r f =>
      f.CF = s.flags.CF ∧ ∃ c, AddsTo { f with CF := c } a 1#w.bits 0 r := fun w rm =>
    ⟨_, rfl, s.rewritten_effect w (s.loc rm) _ _ ⟨rfl, rfl, rfl⟩ (incFlags_addsTo (width_bits_pos w) s.flags _)⟩
  have dec : ∀ w rm, ∃ t, exec (.decRm w rm) s = .next t ∧ AluEffect s t w (s.loc rm) true fun a r f =>
      f.CF = s.flags.CF ∧ ∃ c, SubtractsTo { f with CF := c } a 1#w.bits 0 r := fun w rm =>
    ⟨_, rfl, s.rewritten_effect w (s.loc rm) _ _ ⟨rfl, rfl, rfl⟩ (decFlags_subtractsTo (width_bits_pos w) s.flags _)⟩
  refine ⟨inc, fun r => ?_, dec, fun r => ?_, fun w rm => ⟨_, rfl,
    s.rewritten_effect w (s.loc rm) _ _ ⟨rfl, rfl, rfl⟩ (Flags.ofSub_negates (width_bits_pos w) s.flags _)⟩⟩
  · rw [(exec_incDecReg s r).1]
    exact inc .word (.reg (regNumber r))
  · rw [(exec_incDecReg s r).2]
    exact dec .word (.reg (regNumber r))

end Sys2Proof.Machine
end

section
/-! PROOFS. The decimal and ASCII adjustments and the conversions (O30, O31, O32). -/

namespace Sys2Proof.Machine

/-! ## What an instruction on AX and DX leaves alone -/

/-- Nothing of the chip differs but the listed registers, the status flags and what other masters write (R42, R80). -/
def ChangesOnly (l : List Reg16) (s t : State) : Prop :=
  SameControlFlags s.flags t.flags ∧ SameRegsBut l s t ∧ SameMemory s t ∧ SameControl s t

/-- After a reading, a register is written that is listed, or with what it held. -/
theorem Reading.changesOnly {s u : State} (h : Reading s u) {l : List Reg16} (ax dx : Word) (f : Flags) (d : Nat)
    (hax : .ax ∈ l ∨ ax = u.AX) (hdx : .dx ∈ l ∨ dx = u.DX) (hf : SameControlFlags s.flags f) :
    ChangesOnly l s { u with AX := ax, DX := dx, flags := f, draws := d } := by
  refine ⟨hf, fun r hr => ?_, h.same, h.toTraffic.sameControl⟩
  rw [← h.sameRegs r]
  cases r with
  | ax => exact hax.resolve_left hr
  | dx => exact hdx.resolve_left hr
  | _ => rfl

/-- AX alone written. -/
theorem State.changesAX (s : State) (ax : Word) (f : Flags) (d : Nat) (hf : SameControlFlags s.flags f) :
    ChangesOnly [.ax] s { s with AX := ax, flags := f, draws := d } :=
  (Reading.refl s).changesOnly ax s.DX f d (.inl (by simp)) (.inr rfl) hf

/-! ## AAA, AAS, DAA and DAS -/

theorem and_0F_toNat (b : Byte) : (b &&& 0x0F#8).toNat = b.toNat % 16 := Nat.and_two_pow_sub_one_eq_mod b.toNat 4

/-- What the ASCII adjustments leave: the low digit of `al'` and all of `ah'` where the digit is adjusted, of `al` and `ah`
where it is not, and in AF and CF which of the two (R209, R223). -/
theorem State.asciiAdjusted (s : State) (adj : Bool) (al ah al' ah' : Byte) :
    let t := { s with
      AX := if adj then wordOf (al' &&& 0x0F#8) ah' else wordOf (al &&& 0x0F#8) ah
      flags.AF := adj
      flags.CF := adj }.undefAsciiAdjust
    (t.reg8 .al).toNat = (if adj then al'.toNat else al.toNat) % 16
      ∧ (t.reg8 .ah).toNat = (if adj then ah'.toNat else ah.toNat)
      ∧ t.flags.AF = adj ∧ t.flags.CF = adj ∧ ChangesOnly [.ax] s t := by
  refine ⟨?_, ?_, rfl, rfl, s.changesAX _ _ _ ⟨rfl, rfl, rfl⟩⟩
  · cases adj with
    | true => exact (congrArg BitVec.toNat (lowByte_wordOf _ _)).trans (and_0F_toNat al')
    | false => exact (congrArg BitVec.toNat (lowByte_wordOf _ _)).trans (and_0F_toNat al)
  · cases adj with
    | true => exact congrArg BitVec.toNat (highByte_wordOf _ _)
    | false => exact congrArg BitVec.toNat (highByte_wordOf _ _)

/-- What the decimal adjustments leave: AL with its SF, ZF and PF, and AF and CF as the digits needed it (R210,
R224). -/
theorem State.decimalAdjusted (s : State) (al : Byte) :
    let t := s.decimalAdjust al
    t.reg8 .al = al ∧ t.flags.AF = lowDigitAdjusts s ∧ t.flags.CF = highDigitAdjusts s ∧ t.reg8 .ah = s.reg8 .ah
      ∧ SzpOf t.flags (t.reg8 .al) ∧ ChangesOnly [.ax] s t := by
  have hal : (s.decimalAdjust al).reg8 .al = al := lowByte_wordOf al (highByte s.AX)
  refine ⟨hal, rfl, rfl, highByte_wordOf al (highByte s.AX), ?_, s.changesAX _ _ _ ⟨rfl, rfl, rfl⟩⟩
  rw [hal]
  exact Flags.szpOf_of_eq (g := s.flags) rfl rfl rfl

theorem daaResult_toNat (s : State) : (daaResult s).toNat =
    ((s.reg8 .al).toNat + (if lowDigitAdjusts s then 6 else 0) + (if highDigitAdjusts s then 0x60 else 0)) % 256 := by
  have hal : (lowByte s.AX).toNat < 256 := (lowByte s.AX).isLt
  unfold daaResult State.reg8
  cases lowDigitAdjusts s <;> cases highDigitAdjusts s <;> simp [BitVec.toNat_add, Nat.mod_eq_of_lt hal]

theorem dasResult_toNat (s : State) : (dasResult s).toNat =
    ((s.reg8 .al).toNat + (if lowDigitAdjusts s then 250 else 0) + (if highDigitAdjusts s then 0xA0 else 0)) % 256 := by
  unfold dasResult State.reg8
  cases lowDigitAdjusts s <;> cases highDigitAdjusts s <;> simp [BitVec.toNat_sub] <;> omega

/-- Settles O30: the adjustments as the model computes them, AL and AH read as numbers. -/
theorem decimalAdjustResults : Obligations.DecimalAdjustResults := by
  rintro s _ _ lo hi rfl rfl hlo hhi
  obtain rfl : lo = lowDigitAdjusts s := hlo
  obtain rfl : hi = highDigitAdjusts s := hhi
  refine ⟨?aaa, ?aas, ?daa, ?das⟩
  case daa =>
    obtain ⟨hal, haf, hcf, hrest⟩ := s.decimalAdjusted (daaResult s)
    exact ⟨_, rfl, fun _ => ⟨(congrArg BitVec.toNat hal).trans (daaResult_toNat s), haf, hcf⟩, hrest⟩
  case das =>
    obtain ⟨hal, haf, hcf, hrest⟩ := s.decimalAdjusted (dasResult s)
    exact ⟨_, rfl, fun _ => ⟨(congrArg BitVec.toNat hal).trans (dasResult_toNat s), haf, hcf⟩, hrest⟩
  case aaa =>
    obtain ⟨hal, hah, hrest⟩ :=
      s.asciiAdjusted (lowDigitAdjusts s) (s.reg8 .al) (s.reg8 .ah) (s.reg8 .al + 6#8) (s.reg8 .ah + 1#8)
    refine ⟨_, rfl, hal.trans ?_, fun _ => hah.trans ?_, hrest⟩
    · cases lowDigitAdjusts s <;> simp [BitVec.toNat_add]
    · cases lowDigitAdjusts s with
      | true => exact BitVec.toNat_add _ _
      | false => exact (Nat.mod_eq_of_lt (BitVec.isLt _)).symm
  case aas =>
    obtain ⟨hal, hah, hrest⟩ :=
      s.asciiAdjusted (lowDigitAdjusts s) (s.reg8 .al) (s.reg8 .ah) (s.reg8 .al - 6#8) (s.reg8 .ah - 1#8)
    refine ⟨_, rfl, hal.trans ?_, fun _ => hah.trans ?_, hrest⟩
    · cases lowDigitAdjusts s <;> simp [BitVec.toNat_sub, Nat.add_comm]
    · cases lowDigitAdjusts s with
      | true => exact (BitVec.toNat_sub _ _).trans (congrArg (· % 256) (Nat.add_comm _ _))
      | false => exact (Nat.mod_eq_of_lt (BitVec.isLt _)).symm

/-! ## ADD with DAA and SUB with DAS -/

/-- What a two-operand instruction that writes AL leaves there (R203, R213). -/
theorem AluEffect.al {s t : State} {rel : Byte → Byte → Flags → Prop}
    (h : AluEffect s t .byte (.reg .axAl) true rel) : rel (s.reg8 .al) (t.reg8 .al) t.flags := by
  obtain ⟨a, r, ha, hr, -, ⟨hregs, -⟩, -⟩ := h
  obtain rfl : a = s.reg8 .al := ha
  obtain rfl : t.reg8 .al = r := (hregs.reg .byte .axAl).trans (s.reg_setReg_same .byte .axAl r)
  exact hr

/-- Settles O31: the low digit is adjusted where it carries or borrows in decimal, the high digit where the whole number
does; what ADD and SUB leave is outside the range where nothing is claimed of DAA and DAS. -/
theorem packedDecimalArithmetic : Obligations.PackedDecimalArithmetic := fun s x y b hx hy hal hb => by
  refine ⟨?_, ?_⟩
  · obtain ⟨⟨-, -, -, hadd⟩, -⟩ := additionResults s
    obtain ⟨t, ht, heffect⟩ := hadd (.b b)
    obtain ⟨hsum, -, hcf, haf, -⟩ : AddsTo t.flags (s.reg8 .al) b 0 (t.reg8 .al) := AluEffect.al heffect
    obtain ⟨-, -, ⟨u, hu, hadj, -⟩, -⟩ := decimalAdjustResults t _ _ _ _ rfl rfl rfl rfl
    refine ⟨t, u, ht, hu, ?_⟩
    rw [hal, hb] at hsum hcf haf
    have hlow : 9 < (t.reg8 .al).toNat % 16 ∨ t.flags.AF = true ↔ 10 ≤ x % 10 + y % 10 := by
      rw [haf]
      omega
    have hhigh : 0x99 < (t.reg8 .al).toNat ∨ t.flags.CF = true ↔ 100 ≤ x + y := by
      rw [hcf]
      omega
    simp only [Bool.or_eq_true, decide_eq_true_eq, hlow, hhigh] at hadj
    obtain ⟨hresult, -, hcarry⟩ := hadj (by rw [Bool.eq_false_iff, ne_eq, haf, hcf]; omega)
    refine ⟨?_, by rw [hcarry, Bool.or_eq_true, decide_eq_true_eq, hhigh]⟩
    rw [hresult]
    split <;> split <;> omega
  · obtain ⟨⟨-, -, -, hsub⟩, -⟩ := subtractionResults s
    obtain ⟨t, ht, heffect⟩ := hsub (.b b)
    obtain ⟨hdiff, -, hcf, haf, -⟩ : SubtractsTo t.flags (s.reg8 .al) b 0 (t.reg8 .al) := AluEffect.al heffect
    obtain ⟨-, -, -, ⟨u, hu, hadj, -⟩⟩ := decimalAdjustResults t _ _ _ _ rfl rfl rfl rfl
    refine ⟨t, u, ht, hu, ?_⟩
    rw [hal, hb] at hdiff hcf haf
    have hlow : 9 < (t.reg8 .al).toNat % 16 ∨ t.flags.AF = true ↔ x % 10 < y % 10 := by
      rw [haf]
      omega
    have hhigh : 0x99 < (t.reg8 .al).toNat ∨ t.flags.CF = true ↔ x < y := by
      rw [hcf]
      omega
    simp only [Bool.or_eq_true, decide_eq_true_eq, hlow, hhigh] at hadj
    obtain ⟨hresult, -, hborrow⟩ := hadj (by rw [Bool.eq_false_iff, ne_eq, haf, hcf]; omega)
    refine ⟨?_, by rw [hborrow, Bool.or_eq_true, decide_eq_true_eq, hhigh]⟩
    rw [hresult]
    split <;> split <;> omega

/-! ## AAM, AAD, CBW and CWD -/

/-- What AAM and AAD leave: both halves of AX, and SF, ZF and PF of AL (R243, R246). -/
theorem State.asciiScaled (s : State) (al ah : Byte) :
    let t := { s with AX := wordOf al ah, flags := s.flags.setSzp al }.undefAsciiScale
    t.reg8 .al = al ∧ t.reg8 .ah = ah ∧ SzpOf t.flags (t.reg8 .al) ∧ ChangesOnly [.ax] s t := by
  have hal : { s with AX := wordOf al ah, flags := s.flags.setSzp al }.undefAsciiScale.reg8 .al = al :=
    lowByte_wordOf al ah
  refine ⟨hal, highByte_wordOf al ah, ?_, s.changesAX _ _ _ ⟨rfl, rfl, rfl⟩⟩
  rw [hal]
  exact Flags.szpOf_of_eq (g := s.flags) rfl rfl rfl

/-- CWD: DX:AX is AX as a signed number (R248). -/
theorem cwd_toInt (x : Word) :
    (if x.msb then 0xFFFF#16 else 0x0000#16 : Word).toInt * 65536 + (x.toNat : Int) = x.toInt := by
  rw [BitVec.toInt_eq_msb_cond x]
  cases x.msb with
  | true =>
    show (-1 : Int) * 65536 + x.toNat = x.toNat - (65536 : Nat)
    omega
  | false => exact Int.zero_add _

/-- Settles O32: AL divided by ten, AH times ten added to AL, and the two sign extensions. -/
theorem scaleAndConvertResults : Obligations.ScaleAndConvertResults := fun s => by
  refine ⟨?aam, ?aad, ?cbw, ?cwd⟩
  case aam =>
    obtain ⟨hal, hah, hrest⟩ := s.asciiScaled (s.reg8 .al % 10#8) (s.reg8 .al / 10#8)
    exact ⟨_, rfl, (congrArg BitVec.toNat hah).trans BitVec.toNat_udiv,
      (congrArg BitVec.toNat hal).trans BitVec.toNat_umod, hrest⟩
  case aad =>
    obtain ⟨hal, hah, hrest⟩ := s.asciiScaled (s.reg8 .ah * 10#8 + s.reg8 .al) 0#8
    refine ⟨_, rfl, (congrArg BitVec.toNat hal).trans ?_, hah, hrest⟩
    simp [BitVec.toNat_add, BitVec.toNat_mul]
  case cbw =>
    obtain ⟨-, hrest⟩ := s.changesAX (sext16 (lowByte s.AX)) s.flags s.draws ⟨rfl, rfl, rfl⟩
    exact ⟨_, rfl, BitVec.toInt_signExtend_of_le (by decide), rfl, hrest⟩
  case cwd =>
    obtain ⟨-, hrest⟩ := (Reading.refl s).changesOnly (l := [.dx]) s.AX
      (if s.AX.msb then 0xFFFF#16 else 0x0000#16) s.flags s.draws (.inr rfl) (.inl (by simp)) ⟨rfl, rfl, rfl⟩
    exact ⟨_, rfl, cwd_toInt s.AX, rfl, hrest⟩

end Sys2Proof.Machine
end

section
/-! PROOFS. Multiplication and division (O33, O34, O35): first the arithmetic, then the instructions. -/

namespace Sys2Proof.Machine

/-! ## Halves of a word and of DX:AX -/

theorem highByte_toNat (w : Word) : (highByte w).toNat = w.toNat / 256 := by
  have hw := w.isLt
  rw [highByte, BitVec.extractLsb'_toNat, Nat.shiftRight_eq_div_pow]
  omega

/-- A double word is its two halves (R8). -/
theorem dword_halves (p : DWord) : p.extractLsb' 16 16 ++ p.extractLsb' 0 16 = p :=
  (BitVec.extractLsb'_append_extractLsb'_eq_extractLsb' rfl).trans (BitVec.extractLsb'_eq_self ..)

theorem append_toNat (hi lo : Word) : (hi ++ lo : DWord).toNat = hi.toNat * 65536 + lo.toNat := by
  rw [BitVec.toNat_append, ← Nat.shiftLeft_add_eq_or_of_lt lo.isLt, Nat.shiftLeft_eq]

theorem append_toInt (hi lo : Word) : (hi ++ lo : DWord).toInt = hi.toInt * 65536 + (lo.toNat : Int) := by
  rw [BitVec.toInt_append, Int.mul_comm]
  rfl

/-! ## Products -/

/-- A number is the sign extension of its low n bits exactly when it fits them (R242). -/
theorem signExtend_low_iff {m n : Nat} (hn : 0 < n) (hm : n ≤ m) (x : BitVec m) :
    x = (x.extractLsb' 0 n).signExtend m ↔ Fits n x.toInt := by
  have hlow : (x.extractLsb' 0 n).toInt = x.toInt.bmod (2 ^ n) := by
    rw [← BitVec.setWidth_eq_extractLsb' hm, ← BitVec.signExtend_eq_setWidth_of_le _ hm,
      BitVec.toInt_signExtend_eq_toInt_bmod_of_le x hm]
  rw [← BitVec.toInt_inj, BitVec.toInt_signExtend_of_le hm]
  constructor
  · intro h
    rw [h]
    exact ⟨BitVec.le_toInt _, BitVec.toInt_lt⟩
  · rintro ⟨hl, hu⟩
    rw [hlow, ← BitVec.toInt_ofInt, BitVec.toInt_ofInt_eq_self hn hl hu]

/-- The unsigned product of two numbers of n bits fits 2n bits (R241). -/
theorem mul_toNat_ofNat {n : Nat} (a b : BitVec n) :
    (BitVec.ofNat (n + n) (a.toNat * b.toNat)).toNat = a.toNat * b.toNat := by
  rw [BitVec.toNat_ofNat, Nat.pow_add]
  exact Nat.mod_eq_of_lt (Nat.mul_lt_mul'' a.isLt b.isLt)

/-- The signed product of two numbers of n bits fits 2n bits (R242). -/
theorem mul_toInt_ofInt {n : Nat} (hn : 0 < n) (a b : BitVec n) :
    (BitVec.ofInt (n + n) (a.toInt * b.toInt)).toInt = a.toInt * b.toInt := by
  have hlt : (2 : Int) ^ (n * 2 - 2) < 2 ^ (n + n - 1) := Int.pow_lt_pow_of_lt (by decide) (by omega)
  have hle : a.toInt * b.toInt ≤ 2 ^ (n * 2 - 2) := BitVec.toInt_mul_toInt_le
  have hge : -(2 : Int) ^ (n * 2 - 2) ≤ a.toInt * b.toInt := BitVec.le_toInt_mul_toInt
  exact BitVec.toInt_ofInt_eq_self (by omega) (by omega) (by omega)

/-- The upper half counts, seen from its bits (R241). -/
theorem bne_zero_iff {n : Nat} (x : BitVec n) : (x != 0#n) = true ↔ x.toNat ≠ 0 := by
  rw [bne_iff_ne, ne_eq, ← BitVec.toNat_inj, BitVec.toNat_ofNat, Nat.zero_mod]

theorem highByte_bne_zero (p : Word) : (highByte p != 0#8) = true ↔ 2 ^ 8 ≤ p.toNat := by
  rw [bne_zero_iff, highByte_toNat]
  omega

/-- What MUL and IMUL leave after their operand is read: CF and OF say whether the upper half counts, and beside the
product nothing else is new but SF, ZF, AF and PF (R241, R242). -/
theorem Reading.product {s u : State} (h : Reading s u) {l : List Reg16} {ax dx : Word} {upper : Bool} {counts : Prop}
    (hupper : upper = true ↔ counts) (hax : .ax ∈ l) (hdx : .dx ∈ l ∨ dx = u.DX) :
    let t := { u with AX := ax, DX := dx }.productFlags upper
    (t.flags.CF = true ↔ counts) ∧ t.flags.OF = t.flags.CF ∧ ChangesOnly l s t := by
  obtain ⟨f, d, e, hf, hcf, hof⟩ := State.productFlags_form { u with AX := ax, DX := dx } upper
  rw [e]
  exact ⟨hcf ▸ hupper, hof.trans hcf.symm, h.changesOnly ax dx f d (.inl hax) hdx (h.flags ▸ hf)⟩

/-- Settles O33: the product is exact because it fits twice the width. -/
theorem multiplyResults : Obligations.MultiplyResults := fun s rm => by
  have hb := s.readLoc_reading .byte (s.loc rm)
  have hw := s.readLoc_reading .word (s.loc rm)
  refine ⟨⟨_, _, s.readLoc_is .byte (s.loc rm), rfl, ?mulByte⟩, ⟨_, _, s.readLoc_is .word (s.loc rm), rfl, ?mulWord⟩,
    ⟨_, _, s.readLoc_is .byte (s.loc rm), rfl, ?imulByte⟩, ⟨_, _, s.readLoc_is .word (s.loc rm), rfl, ?imulWord⟩⟩
  case mulByte =>
    exact ⟨mul_toNat_ofNat (lowByte s.AX) _, hb.product (highByte_bne_zero _) (by simp) (.inr rfl)⟩
  case mulWord =>
    refine ⟨?_, hw.product (bne_zero_iff _) (by simp) (.inl (by simp))⟩
    exact (append_toNat _ _).symm.trans ((congrArg BitVec.toNat (dword_halves _)).trans (mul_toNat_ofNat s.AX _))
  case imulByte =>
    exact ⟨mul_toInt_ofInt (by decide) (lowByte s.AX) _, hb.product
      (bne_iff_ne.trans (not_congr (signExtend_low_iff (m := 16) (n := 8) (by decide) (by decide) _))) (by simp)
      (.inr rfl)⟩
  case imulWord =>
    have hp : (BitVec.ofInt 32 (s.AX.toInt * (s.readLoc .word (s.loc rm)).1.toInt)).toInt = _ :=
      mul_toInt_ofInt (by decide) s.AX (s.readLoc .word (s.loc rm)).1
    refine ⟨?_, hw.product ?_ (by simp) (.inl (by simp))⟩
    · exact (append_toInt _ _).symm.trans ((congrArg BitVec.toInt (dword_halves _)).trans hp)
    · rw [bne_iff_ne, ← congrArg (Fits 16) hp]
      exact not_congr (signExtend_low_iff (m := 32) (n := 16) (by decide) (by decide) _)

/-! ## Quotients and remainders -/

/-- Quotient and remainder of an unsigned division whose quotient fits (R244). -/
theorem unsigned_division {n N : Nat} {d : BitVec n} (hd : d.toNat ≠ 0) (hq : N / d.toNat < 2 ^ n) :
    N = d.toNat * (BitVec.ofNat n (N / d.toNat)).toNat + (BitVec.ofNat n (N % d.toNat)).toNat
      ∧ (BitVec.ofNat n (N % d.toNat)).toNat < d.toNat := by
  have hr : N % d.toNat < d.toNat := Nat.mod_lt N (Nat.pos_of_ne_zero hd)
  rw [BitVec.toNat_ofNat, BitVec.toNat_ofNat, Nat.mod_eq_of_lt hq, Nat.mod_eq_of_lt (Nat.lt_trans hr d.isLt)]
  exact ⟨(Nat.div_add_mod N d.toNat).symm, hr⟩

/-- Quotient and remainder of a signed division whose quotient fits: it is rounded toward zero, and the remainder has
the sign of the dividend (R245). -/
theorem signed_division {n : Nat} (hn : 0 < n) {N : Int} {d : BitVec n} (hd : d.toInt ≠ 0)
    (hq : Fits n (N.tdiv d.toInt)) :
    let q := BitVec.ofInt n (N.tdiv d.toInt)
    let r := BitVec.ofInt n (N.tmod d.toInt)
    N = d.toInt * q.toInt + r.toInt ∧ r.toInt.natAbs < d.toInt.natAbs ∧ (0 ≤ N → 0 ≤ r.toInt)
      ∧ (N ≤ 0 → r.toInt ≤ 0) := by
  intro q r
  have habs : (N.tmod d.toInt).natAbs < d.toInt.natAbs := by
    rw [Int.natAbs_tmod]
    exact Nat.mod_lt _ (Int.natAbs_pos.mpr hd)
  have hlow := BitVec.le_toInt d
  have hhigh := BitVec.toInt_lt (x := d)
  have hneg : N ≤ 0 → N.tmod d.toInt ≤ 0 := fun h => by
    have := Int.tmod_nonneg d.toInt (Int.neg_nonneg_of_nonpos h)
    rw [Int.neg_tmod] at this
    omega
  have hqint : q.toInt = N.tdiv d.toInt := BitVec.toInt_ofInt_eq_self hn hq.1 hq.2
  have hrint : r.toInt = N.tmod d.toInt := BitVec.toInt_ofInt_eq_self hn (by omega) (by omega)
  rw [hqint, hrint]
  exact ⟨(Int.mul_tdiv_add_tmod N d.toInt).symm, habs, Int.tmod_nonneg d.toInt, hneg⟩

/-! ## DIV and IDIV -/

section
variable {s u : State} (h : Reading s u)
include h

/-- What a byte division whose quotient fits leaves (R244, R245). -/
theorem Reading.quotient8 (q r : Byte) :
    let t := u.setQuotient8 q r
    t.reg8 .al = q ∧ t.reg8 .ah = r ∧ ChangesOnly [.ax] s t := by
  obtain ⟨f, d, e, hf⟩ := State.setQuotient8_form u q r
  rw [e]
  exact ⟨lowByte_wordOf q r, highByte_wordOf q r,
    h.changesOnly (wordOf q r) u.DX f d (.inl (by simp)) (.inr rfl) (h.flags ▸ hf)⟩

/-- What a word division whose quotient fits leaves (R244, R245). -/
theorem Reading.quotient16 (q r : Word) :
    let t := u.setQuotient16 q r
    t.AX = q ∧ t.DX = r ∧ ChangesOnly [.ax, .dx] s t := by
  obtain ⟨f, d, e, hf⟩ := State.setQuotient16_form u q r
  rw [e]
  exact ⟨rfl, rfl, h.changesOnly q r f d (.inl (by simp)) (.inl (by simp)) (h.flags ▸ hf)⟩

/-- What the divide error after a reading does (R442). -/
theorem Reading.divideError {l : List Reg16} (w : Width) (hax : .ax ∈ l) (hdx : .dx ∈ l ∨ w = .byte) :
    DivideError s (u.divideError w) l := by
  obtain ⟨ax, dx, f, d, e, hf, hbyte⟩ := State.divideError_form u w
  obtain ⟨hflags, hregs, hmem, hcontrol⟩ :=
    h.changesOnly ax dx f d (.inl hax) (hdx.imp_right hbyte) (h.flags ▸ hf)
  obtain ⟨htaken, hnmi, hfull, hsti, htrap, hseq, hfresh⟩ :=
    State.interrupt_taken { u with AX := ax, DX := dx, flags := f, draws := d } 0x00#8 u.IP
  rw [e]
  exact ⟨_, hregs, hmem, hflags, hcontrol, h.masters, h.IP ▸ htaken, hnmi.trans h.nmiLatch, hfull.trans h.fullShadow,
    hsti.trans h.stiShadow, htrap.trans h.trapDue, hseq.trans h.afterSeq, hfresh.trans h.fresh⟩

end

/-- A division has a next state, by its test for the divide error. -/
theorem division_cases {r : Result} {error ok : State} {faults fits : Prop} [Decidable faults] [Decidable fits]
    {P E : State → Prop} (hr : r = .next (if faults then error else ok)) (hfits : faults ↔ ¬ fits)
    (herror : E error) (hok : ¬ faults → P ok) : ∃ t, r = .next t ∧ if fits then P t else E t := by
  refine ⟨_, hr, ?_⟩
  by_cases h : faults
  · rw [if_pos h, if_neg (hfits.mp h)]
    exact herror
  · rw [if_neg h, if_pos (Classical.not_not.mp (mt hfits.mpr h))]
    exact hok h

/-- Settles O34: the model's test for the divide error is that the quotient does not fit or the divisor is 0. -/
theorem unsignedDivision : Obligations.UnsignedDivision := fun s rm => by
  have hb := s.readLoc_reading .byte (s.loc rm)
  have hw := s.readLoc_reading .word (s.loc rm)
  refine ⟨⟨_, s.readLoc_is .byte (s.loc rm), division_cases rfl (by omega)
    (hb.divideError .byte (by simp) (.inr rfl)) fun h => ?byte⟩, ⟨_, s.readLoc_is .word (s.loc rm), ?word⟩⟩
  case byte =>
    obtain ⟨hal, hah, hrest⟩ := hb.quotient8 _ _
    obtain ⟨hq, hr⟩ := unsigned_division (n := 8) (N := s.AX.toNat) (d := (s.readLoc .byte (s.loc rm)).1)
      (by omega) (by omega)
    rw [hal, hah]
    exact ⟨hq, hr, hrest⟩
  case word =>
    have hN : s.DX.toNat * 65536 + s.AX.toNat = s.dxax.toNat := (append_toNat s.DX s.AX).symm
    rw [hN]
    refine division_cases rfl (by omega) (hw.divideError .word (by simp) (.inl (by simp))) fun h => ?_
    obtain ⟨hq, hr⟩ := unsigned_division (n := 16) (N := s.dxax.toNat) (d := (s.readLoc .word (s.loc rm)).1)
      (by omega) (by omega)
    obtain ⟨-, -, hrest⟩ := hw.quotient16 _ _
    exact ⟨hq, hr, hrest⟩

/-- The most negative quotient accepted, by the parameter (R245, D12). -/
theorem idivLow_eq (p : Params) (hi : Int) : idivLow p hi = -hi - (if p.idivMinFaults then 0 else 1) := by
  unfold idivLow
  split <;> simp

/-- Settles O35: as for DIV, the most negative quotient faulting by the parameter. -/
theorem signedDivision : Obligations.SignedDivision := by
  rintro s rm extra hextra
  have hb := s.readLoc_reading .byte (s.loc rm)
  have hw := s.readLoc_reading .word (s.loc rm)
  have hlow : ∀ hi, idivLow s.params hi = -hi - extra := fun hi => hextra ▸ idivLow_eq s.params hi
  have hle : extra = 0 ∨ extra = 1 := by
    rw [hextra]
    split <;> simp
  have h8 := hlow 127
  have h16 := hlow 32767
  refine ⟨⟨_, s.readLoc_is .byte (s.loc rm), division_cases rfl (by omega)
    (hb.divideError .byte (by simp) (.inr rfl)) fun h => ?byte⟩, fun N hN => ⟨_, s.readLoc_is .word (s.loc rm), ?word⟩⟩
  case byte =>
    obtain ⟨hal, hah, hrest⟩ := hb.quotient8 _ _
    obtain ⟨hq, hr, hpos, hneg⟩ := signed_division (n := 8) (N := s.AX.toInt) (d := (s.readLoc .byte (s.loc rm)).1)
      (by decide) (by omega) (by rw [fits_iff]; omega)
    rw [hal, hah]
    exact ⟨hq, hr, hpos, hneg, hrest⟩
  case word =>
    obtain rfl : N = s.dxax.toInt := hN.trans (append_toInt s.DX s.AX).symm
    refine division_cases rfl (by omega) (hw.divideError .word (by simp) (.inl (by simp))) fun h => ?_
    obtain ⟨hq, hr, hpos, hneg⟩ := signed_division (n := 16) (N := s.dxax.toInt) (d := (s.readLoc .word (s.loc rm)).1)
      (by decide) (by omega) (by rw [fits_iff]; omega)
    obtain ⟨-, -, hrest⟩ := hw.quotient16 _ _
    exact ⟨hq, hr, hpos, hneg, hrest⟩

end Sys2Proof.Machine
end

section
/-! PROOFS. AND, OR, XOR, TEST and NOT, and a shift or rotate by a count of 0 (O36, O39). -/

namespace Sys2Proof.Machine

/-! ## AND, OR, XOR, TEST and NOT -/

/-- The flags of AND, OR, XOR and TEST (R260). -/
theorem Flags.ofLogic_logicFlags {n : Nat} (f : Flags) (r : BitVec n) (af : Bool) : LogicFlags (f.ofLogic r af) r :=
  ⟨rfl, rfl, Flags.szpOf_of_eq (g := f) rfl rfl rfl⟩

/-- The three forms of a two-operand instruction that writes its result and whose flags are those of logic (R270 to
R272, R276 to R281). -/
theorem logicForms (s : State) (op : AluOp) {rmReg : Dir → Width → RM → RegNum → Instr} {rmImm : RM → Imm → Instr}
    {accImm : Imm → Instr} {f : (n : Nat) → BitVec n → BitVec n → BitVec n} (hwrites : op.writes = true)
    (hresult : ∀ n (a b : BitVec n) cf, op.result a b cf = f n a b)
    (hflags : ∀ n (a b : BitVec n) (g : Flags) af, op.flags g a b af = g.ofLogic (f n a b) af)
    (hrmReg : ∀ d w rm reg, exec (rmReg d w rm reg) s = .next (s.aluRmReg op d w rm reg))
    (hrmImm : ∀ rm imm, exec (rmImm rm imm) s = .next (s.aluLoc op imm.width (s.loc rm) (dataValue imm)))
    (haccImm : ∀ imm, exec (accImm imm) s = .next (s.aluLoc op imm.width (.reg .axAl) (dataValue imm))) :
    LogicForms s rmReg rmImm accImm f := by
  have effect : ∀ (u : State) (w : Width) (l : Loc) (b : BitVec w.bits),
      AluEffect u (u.aluLoc op w l b) w l true fun a r g => r = f w.bits a b ∧ LogicFlags g r := fun u w l b => by
    rw [← hwrites]
    refine u.aluLoc_effect op w l b fun a af => ⟨hresult _ a b _, ?_⟩
    rw [hresult, hflags]
    exact Flags.ofLogic_logicFlags u.flags _ af
  refine ⟨fun w rm reg => ⟨_, hrmReg .fromReg w rm reg, effect s w _ _⟩, fun w rm reg => ?_,
    fun rm imm => ⟨_, hrmImm rm imm, effect s _ _ _⟩, fun imm => ⟨_, haccImm imm, effect s _ _ _⟩⟩
  exact ⟨_, _, s.readLoc_is w (s.loc rm), hrmReg .toReg w rm reg,
    (effect _ w (.reg reg) _).before (s.readLoc_reading w (s.loc rm))⟩

/-- TEST leaves the flags of AND and writes nothing (R273). -/
theorem State.test_effect (s : State) (w : Width) (l : Loc) (b : BitVec w.bits) :
    AluEffect s (s.aluLoc .test w l b) w l false fun a r f => r = a &&& b ∧ LogicFlags f r :=
  s.aluLoc_effect .test w l b fun a af => ⟨rfl, Flags.ofLogic_logicFlags s.flags (a &&& b) af⟩

/-- Settles O36: the three forms of AND, OR and XOR, TEST by the flags of AND, and NOT of an operand read first. -/
theorem logicResults : Obligations.LogicResults := fun s =>
  ⟨logicForms s .and rfl (fun _ _ _ _ => rfl) (fun _ _ _ _ _ => rfl) (fun _ _ _ _ => rfl) (fun _ _ => rfl)
      fun _ => rfl,
    logicForms s .or rfl (fun _ _ _ _ => rfl) (fun _ _ _ _ _ => rfl) (fun _ _ _ _ => rfl) (fun _ _ => rfl)
      fun _ => rfl,
    logicForms s .xor rfl (fun _ _ _ _ => rfl) (fun _ _ _ _ _ => rfl) (fun _ _ _ _ => rfl) (fun _ _ => rfl)
      fun _ => rfl,
    fun w rm _ => ⟨_, rfl, s.test_effect w (s.loc rm) _⟩, fun rm imm => ⟨_, rfl, s.test_effect imm.width (s.loc rm) _⟩,
    fun imm => ⟨_, rfl, s.test_effect imm.width (.reg .axAl) _⟩,
    fun w rm => ⟨_, _, s.readLoc_is w (s.loc rm), rfl, State.writeLoc_assigns (s.readLoc_reading w _) w (s.loc rm) _⟩⟩

/-! ## A count of 0 -/

/-- A byte of an operand that was read, where memory answers for it, is one its address can hold (R66, R67). -/
theorem Reads.mayHold {s : State} {seg off : Word} {w : Width} {v : BitVec w.bits} (h : Reads s seg off w v)
    {a : PAddr} {b : Byte} (hb : storedByte seg off w v a = some b) (ha : s.Remembers a) : s.MayHold a b := by
  cases w with
  | byte =>
    obtain ⟨rfl, rfl⟩ := Option.ite_some_none_eq_some.mp hb
    exact h ha
  | word =>
    obtain ⟨hlow, hhigh⟩ := h
    unfold storedByte at hb
    simp only [] at hb
    split at hb
    · cases hb
      subst a
      exact hlow ha
    · obtain ⟨rfl, rfl⟩ := Option.ite_some_none_eq_some.mp hb
      exact hhigh ha

/-- What was read, stored back, changes no byte. -/
theorem Stores.same {s t : State} {seg off : Word} {w : Width} {v : BitVec w.bits} (h : Stores s t seg off w v)
    (hv : Reads s seg off w v) : SameMemory s t := fun a => by
  rcases h a with e | e
  · rw [e]
    cases hb : storedByte seg off w v a with
    | none => exact .inl rfl
    | some b =>
      by_cases hk : kindAt s.params.memMap a = .ram
      · simp only [if_pos hk]
        exact hv.mayHold hb (.inl hk)
      · simp only [if_neg hk]
        exact .inl rfl
  · exact .inr e

/-- An operand that was read, put back or not, stays as it is (R262). -/
theorem Reading.rewriteLoc {s u : State} (h : Reading s u) {w : Width} {l : Loc} {v : BitVec w.bits}
    (hv : OperandIs s w l v) : Reading s (u.rewriteLoc w l v) := by
  refine ⟨h.toTraffic.trans (u.rewriteLoc_traffic w l v), ?_⟩
  cases l with
  | reg n => exact h.same
  | mem sr seg off =>
    unfold State.rewriteLoc
    simp only []
    split
    · have hdrawn : Reading s { u with draws := u.draws + 1 } := h.trans (.ofDraws u _)
      exact Stores.same (MemoryAfter.before hdrawn (State.memWrite_stores _ sr seg off w v)) hv
    · exact h.same

/-- Settles O39: with CL = 0 the operand is read and at most put back. -/
theorem shiftByZero : Obligations.ShiftByZero := fun s w rm hcl i hi => by
  have unchanged : ∀ op, SetsRegs s (s.shiftRm op .cl w rm) s := fun op => by
    have hcount : s.count .cl = 0 := congrArg BitVec.toNat hcl
    unfold State.shiftRm
    simp only [if_pos hcount]
    exact ((s.readLoc_reading w (s.loc rm)).rewriteLoc (s.readLoc_is w (s.loc rm))).setsRegs
  simp only [List.mem_cons, List.not_mem_nil, or_false] at hi
  rcases hi with rfl | rfl | rfl | rfl | rfl | rfl | rfl <;> exact ⟨_, rfl, unchanged _⟩

end Sys2Proof.Machine
end

section
/-! PROOFS. The shifts and rotates by a count other than 0 (O37, O38): repeated one-bit steps against the shift or the
rotation as a whole, the flags they leave, and the instructions. -/

namespace Sys2Proof.Machine

/-! ## One step more -/

/-- The last of the repeated steps, after the others (R262). -/
theorem ShiftOp.times_succ {n : Nat} (op : ShiftOp) (k : Nat) (x : BitVec n) (cf : Bool) :
    op.times (k + 1) x cf = op.step (op.times k x cf).1 (op.times k x cf).2 := by
  induction k generalizing x cf with
  | zero => rfl
  | succ k ih => exact ih (op.step x cf).1 (op.step x cf).2

/-- A view of operand and CF that each step takes from `F k` to `F (k + 1)` is `F k` after k steps. -/
theorem ShiftOp.times_view {n : Nat} {β : Type} (op : ShiftOp) (view : BitVec n → Bool → β) (F : Nat → β) (k : Nat)
    {x : BitVec n} {cf : Bool} (hzero : view x cf = F 0)
    (hstep : ∀ k y b, view y b = F k → view (op.step y b).1 (op.step y b).2 = F (k + 1)) :
    view (op.times k x cf).1 (op.times k x cf).2 = F k := by
  induction k with
  | zero => exact hzero
  | succ k ih =>
    rw [ShiftOp.times_succ]
    exact hstep k _ _ ih

/-! ## Shifts -/

section
variable {n : Nat} (k : Nat) (x : BitVec n) (cf : Bool)

theorem ShiftOp.times_shl : (ShiftOp.shl.times k x cf).1 = x <<< k :=
  ShiftOp.shl.times_view (fun y _ => y) (x <<< ·) k (BitVec.shiftLeft_zero x).symm fun k y _ h => by
    rw [BitVec.shiftLeft_add, ← h]
    rfl

theorem ShiftOp.times_shr : (ShiftOp.shr.times k x cf).1 = x >>> k :=
  ShiftOp.shr.times_view (fun y _ => y) (x >>> ·) k (BitVec.ushiftRight_zero x).symm fun k y _ h => by
    rw [BitVec.shiftRight_add, ← h]
    rfl

theorem ShiftOp.times_sar : (ShiftOp.sar.times k x cf).1 = x.sshiftRight k :=
  ShiftOp.sar.times_view (fun y _ => y) x.sshiftRight k BitVec.sshiftRight_zero.symm fun k y _ h => by
    rw [BitVec.sshiftRight_add, ← h]
    rfl

end

/-- The top bit after a shift to the left is the one a shift by one more puts out (R263). -/
theorem msb_shiftLeft_iff {n : Nat} (hn : 0 < n) (x : BitVec n) (k : Nat) :
    (x <<< k).msb = true ↔ x.toNat * 2 ^ (k + 1) / 2 ^ n % 2 = 1 := by
  have hbit : (x <<< k).msb = (x.toNat * 2 ^ k).testBit (n - 1) := by
    rw [BitVec.msb_eq_getLsbD_last, BitVec.getLsbD, BitVec.toNat_shiftLeft, Nat.testBit_mod_two_pow, Nat.shiftLeft_eq,
      decide_eq_true (Nat.sub_lt hn Nat.one_pos), Bool.true_and]
  rw [hbit, Nat.testBit_eq_decide_div_mod_eq, decide_eq_true_iff, Nat.pow_succ, ← Nat.mul_assoc, two_pow_eq hn,
    Nat.mul_comm 2, Nat.mul_div_mul_right _ _ Nat.two_pos]

/-- The lowest bit after a shift to the right is the one a shift by one more puts out (R264). -/
theorem lsb_shiftRight_iff {n : Nat} (x : BitVec n) (k : Nat) :
    (x >>> k).getLsbD 0 = true ↔ x.toNat / 2 ^ k % 2 = 1 := by
  rw [BitVec.getLsbD_ushiftRight, Nat.add_zero, BitVec.getLsbD, Nat.testBit_eq_decide_div_mod_eq, decide_eq_true_iff]

theorem toInt_sshiftRight_eq_div {n : Nat} (x : BitVec n) (k : Nat) : (x.sshiftRight k).toInt = x.toInt / 2 ^ k := by
  rw [BitVec.toInt_sshiftRight, Int.shiftRight_eq_div_pow, Int.natCast_pow]
  rfl

/-- The same for a signed number, whose value and whose bits are odd together. -/
theorem lsb_sshiftRight_iff {n : Nat} (hn : 0 < n) (x : BitVec n) (k : Nat) :
    (x.sshiftRight k).getLsbD 0 = true ↔ x.toInt / 2 ^ k % 2 = 1 := by
  have hcases := toInt_cases hn (x.sshiftRight k)
  rw [← toInt_sshiftRight_eq_div, BitVec.getLsbD, Nat.testBit_zero, decide_eq_true_iff]
  generalize 2 ^ (n - 1) = M at hcases
  omega

/-- SHL: the value, and the bit shifted out last (R263). -/
theorem ShiftOp.shl_result {n : Nat} (hn : 0 < n) (k : Nat) (x : BitVec n) (cf : Bool) :
    (ShiftOp.shl.times (k + 1) x cf).1.toNat = x.toNat * 2 ^ (k + 1) % 2 ^ n
      ∧ ((ShiftOp.shl.times (k + 1) x cf).2 = true ↔ x.toNat * 2 ^ (k + 1) / 2 ^ n % 2 = 1) := by
  refine ⟨by rw [ShiftOp.times_shl, BitVec.toNat_shiftLeft, Nat.shiftLeft_eq], ?_⟩
  rw [← msb_shiftLeft_iff hn, ← ShiftOp.times_shl k x cf, ShiftOp.times_succ]
  rfl

/-- SHR: the value, and the bit shifted out last (R264). -/
theorem ShiftOp.shr_result {n : Nat} (k : Nat) (x : BitVec n) (cf : Bool) :
    (ShiftOp.shr.times (k + 1) x cf).1.toNat = x.toNat / 2 ^ (k + 1)
      ∧ ((ShiftOp.shr.times (k + 1) x cf).2 = true ↔ x.toNat / 2 ^ k % 2 = 1) := by
  refine ⟨by rw [ShiftOp.times_shr, BitVec.toNat_ushiftRight, Nat.shiftRight_eq_div_pow], ?_⟩
  rw [← lsb_shiftRight_iff, ← ShiftOp.times_shr k x cf, ShiftOp.times_succ]
  rfl

/-- SAR: the value rounded down, and the bit shifted out last (R265). -/
theorem ShiftOp.sar_result {n : Nat} (hn : 0 < n) (k : Nat) (x : BitVec n) (cf : Bool) :
    (ShiftOp.sar.times (k + 1) x cf).1.toInt = x.toInt / 2 ^ (k + 1)
      ∧ ((ShiftOp.sar.times (k + 1) x cf).2 = true ↔ x.toInt / 2 ^ k % 2 = 1) := by
  refine ⟨by rw [ShiftOp.times_sar, toInt_sshiftRight_eq_div], ?_⟩
  rw [← lsb_sshiftRight_iff hn, ← ShiftOp.times_sar k x cf, ShiftOp.times_succ]
  rfl

/-! ## Rotations -/

/-- Each bit of a rotation to the right comes from `r` places above it, round the end. -/
theorem getLsbD_rotateRight_mod {n : Nat} (x : BitVec n) (r i : Nat) :
    (x.rotateRight r).getLsbD i = (decide (i < n) && x.getLsbD ((r + i) % n)) := by
  rcases Nat.eq_zero_or_pos n with rfl | hn
  · rw [BitVec.getLsbD_of_ge _ _ (Nat.zero_le i), decide_eq_false (Nat.not_lt_zero i), Bool.false_and]
  have hr := Nat.mod_lt r hn
  rw [BitVec.getLsbD_rotateRight, ← Nat.mod_add_mod]
  by_cases hi : i < n
  · by_cases h : i < n - r % n
    · simp only [h, decide_true, hi, Bool.true_and, cond_true, Nat.mod_eq_of_lt (show r % n + i < n by omega)]
    · have hwrap : (r % n + i) % n = i - (n - r % n) := by
        rw [Nat.mod_eq_sub_mod (by omega), Nat.mod_eq_of_lt (by omega)]
        omega
      simp only [h, decide_false, hi, decide_true, Bool.true_and, cond_false, hwrap]
  · have h : ¬ i < n - r % n := by omega
    simp only [h, hi, decide_false, Bool.false_and, cond_false]

/-- One place more to the left. -/
theorem rotateLeft_succ {n : Nat} (x : BitVec n) (k : Nat) : x.rotateLeft (k + 1) = (x.rotateLeft k).rotateLeft 1 := by
  refine BitVec.eq_of_getMsbD_eq fun i hi => ?_
  simp only [BitVec.getMsbD_rotateLeft, hi, Nat.mod_lt _ (Nat.zero_lt_of_lt hi), decide_true, Bool.true_and,
    Nat.add_mod_mod, Nat.add_assoc]

/-- One place more to the right. -/
theorem rotateRight_succ {n : Nat} (x : BitVec n) (k : Nat) :
    x.rotateRight (k + 1) = (x.rotateRight k).rotateRight 1 := by
  refine BitVec.eq_of_getLsbD_eq fun i hi => ?_
  simp only [getLsbD_rotateRight_mod, hi, Nat.mod_lt _ (Nat.zero_lt_of_lt hi), decide_true, Bool.true_and,
    Nat.add_mod_mod, Nat.add_assoc]

theorem rotateLeft_zero {n : Nat} (x : BitVec n) : x.rotateLeft 0 = x := by
  refine BitVec.eq_of_getMsbD_eq fun i hi => ?_
  simp only [BitVec.getMsbD_rotateLeft, hi, Nat.zero_add, Nat.mod_eq_of_lt hi, decide_true, Bool.true_and]

theorem rotateRight_zero {n : Nat} (x : BitVec n) : x.rotateRight 0 = x := by
  refine BitVec.eq_of_getLsbD_eq fun i hi => ?_
  simp only [getLsbD_rotateRight_mod, hi, Nat.zero_add, Nat.mod_eq_of_lt hi, decide_true, Bool.true_and]

section
variable {n i : Nat} (hi : i < n) (x : BitVec n) (b : Bool)
include hi

/-- One place to the left with `b` coming in at the bottom. -/
theorem getLsbD_shiftInLeft :
    (x <<< 1 ||| (BitVec.ofBool b).setWidth n).getLsbD i = if i = 0 then b else x.getLsbD (i - 1) := by
  rw [BitVec.getLsbD_or, BitVec.getLsbD_shiftLeft, BitVec.getLsbD_setWidth, BitVec.getLsbD_ofBool, decide_eq_true hi]
  by_cases h : i = 0
  · simp only [h, Nat.one_pos, decide_true, Bool.not_true, Bool.and_false, Bool.false_and, Bool.false_or, Bool.true_and,
      if_true]
  · simp only [h, show ¬ i < 1 by omega, decide_false, Bool.not_false, Bool.true_and, Bool.false_and, Bool.and_false,
      Bool.or_false, if_false]

/-- One place to the right with `b` coming in at the top. -/
theorem getLsbD_shiftInRight :
    (x >>> 1 ||| (BitVec.ofBool b).setWidth n <<< (n - 1)).getLsbD i =
      if i = n - 1 then b else x.getLsbD (i + 1) := by
  rw [BitVec.getLsbD_or, BitVec.getLsbD_ushiftRight, BitVec.getLsbD_shiftLeft, BitVec.getLsbD_setWidth,
    BitVec.getLsbD_ofBool, decide_eq_true hi, Nat.add_comm 1]
  by_cases h : i = n - 1
  · have hout : x.getLsbD (i + 1) = false := BitVec.getLsbD_of_ge x _ (by omega)
    rw [if_pos h]
    simp only [hout, show ¬ i < n - 1 by omega, show i - (n - 1) = 0 by omega, Nat.zero_lt_of_lt hi, decide_true,
      decide_false, Bool.not_false, Bool.true_and, Bool.false_or]
  · simp only [h, show i < n - 1 by omega, decide_true, Bool.not_true, Bool.and_false, Bool.false_and, Bool.or_false,
      if_false]

theorem getLsbD_rotateLeft_one : (x.rotateLeft 1).getLsbD i = if i = 0 then x.msb else x.getLsbD (i - 1) := by
  rcases Nat.lt_or_eq_of_le (show 1 ≤ n by omega) with hn | rfl
  · rw [BitVec.getLsbD_rotateLeft, Nat.mod_eq_of_lt hn, BitVec.msb_eq_getLsbD_last]
    by_cases h : i = 0
    · simp only [h, Nat.one_pos, decide_true, Nat.add_zero, cond_true, if_true]
    · simp only [h, hi, show ¬ i < 1 by omega, decide_false, decide_true, Bool.true_and, cond_false, if_false]
  · obtain rfl : i = 0 := by omega
    rw [BitVec.getLsbD_rotateLeft, Nat.mod_self, BitVec.msb_eq_getLsbD_last]
    rfl

theorem getLsbD_rotateRight_one :
    (x.rotateRight 1).getLsbD i = if i = n - 1 then x.getLsbD 0 else x.getLsbD (i + 1) := by
  rw [getLsbD_rotateRight_mod, decide_eq_true hi, Bool.true_and, Nat.add_comm]
  by_cases h : i = n - 1
  · rw [if_pos h, h, Nat.sub_add_cancel (by omega), Nat.mod_self]
  · rw [if_neg h, Nat.mod_eq_of_lt (by omega)]

end

section
variable {n : Nat} (x : BitVec n) (cf : Bool)

theorem ShiftOp.step_rol : (ShiftOp.rol.step x cf).1 = x.rotateLeft 1 :=
  BitVec.eq_of_getLsbD_eq fun _ hi => (getLsbD_shiftInLeft hi x x.msb).trans (getLsbD_rotateLeft_one hi x).symm

theorem ShiftOp.step_ror : (ShiftOp.ror.step x cf).1 = x.rotateRight 1 :=
  BitVec.eq_of_getLsbD_eq fun _ hi =>
    (getLsbD_shiftInRight hi x (x.getLsbD 0)).trans (getLsbD_rotateRight_one hi x).symm

/-- A step of RCL turns CF and the operand as one number, CF on top (R268). -/
theorem ShiftOp.step_rcl (hn : 0 < n) :
    BitVec.ofBool (ShiftOp.rcl.step x cf).2 ++ (ShiftOp.rcl.step x cf).1 = (BitVec.ofBool cf ++ x).rotateLeft 1 := by
  refine BitVec.eq_of_getLsbD_eq fun i hi => ?_
  rw [getLsbD_rotateLeft_one hi, BitVec.getLsbD_append]
  by_cases hin : i < n
  · rw [if_pos hin, ShiftOp.step, getLsbD_shiftInLeft hin]
    by_cases h : i = 0
    · rw [if_pos h, if_pos h, BitVec.msb_append, if_neg Nat.one_ne_zero, BitVec.msb_ofBool]
    · rw [if_neg h, if_neg h, BitVec.getLsbD_append, if_pos (by omega)]
  · obtain rfl : i = n := by omega
    rw [if_neg hin, if_neg (Nat.ne_of_gt hn), BitVec.getLsbD_append, if_pos (Nat.sub_lt hn Nat.one_pos), Nat.sub_self,
      BitVec.getLsbD_ofBool, ← BitVec.msb_eq_getLsbD_last]
    exact Bool.true_and _

/-- A step of RCR turns CF and the operand as one number, CF on top (R269). -/
theorem ShiftOp.step_rcr (hn : 0 < n) :
    BitVec.ofBool (ShiftOp.rcr.step x cf).2 ++ (ShiftOp.rcr.step x cf).1 = (BitVec.ofBool cf ++ x).rotateRight 1 := by
  refine BitVec.eq_of_getLsbD_eq fun i hi => ?_
  rw [getLsbD_rotateRight_one hi, BitVec.getLsbD_append]
  by_cases hin : i < n
  · rw [if_pos hin, if_neg (by omega), ShiftOp.step, getLsbD_shiftInRight hin, BitVec.getLsbD_append]
    by_cases h : i = n - 1
    · rw [if_pos h, if_neg (by omega), BitVec.getLsbD_ofBool, decide_eq_true (by omega), Bool.true_and]
    · rw [if_neg h, if_pos (by omega)]
  · obtain rfl : i = n := by omega
    rw [if_neg hin, if_pos (by omega), BitVec.getLsbD_append, if_pos hn, Nat.sub_self, BitVec.getLsbD_ofBool]
    exact Bool.true_and _

end

section
variable {n : Nat} (k : Nat) (x : BitVec n) (cf : Bool)

theorem ShiftOp.times_rol : (ShiftOp.rol.times k x cf).1 = x.rotateLeft k :=
  ShiftOp.rol.times_view (fun y _ => y) x.rotateLeft k (rotateLeft_zero x).symm fun k y b h => by
    rw [ShiftOp.step_rol, h, ← rotateLeft_succ]

theorem ShiftOp.times_ror : (ShiftOp.ror.times k x cf).1 = x.rotateRight k :=
  ShiftOp.ror.times_view (fun y _ => y) x.rotateRight k (rotateRight_zero x).symm fun k y b h => by
    rw [ShiftOp.step_ror, h, ← rotateRight_succ]

/-- ROL leaves in CF the bit that came round last, at the bottom (R266). -/
theorem ShiftOp.rol_carry (hn : 0 < n) :
    (ShiftOp.rol.times (k + 1) x cf).2 = (ShiftOp.rol.times (k + 1) x cf).1.getLsbD 0 := by
  rw [ShiftOp.times_succ]
  exact (getLsbD_shiftInLeft hn _ _).symm

/-- ROR leaves in CF the bit that came round last, at the top (R267). -/
theorem ShiftOp.ror_carry (hn : 0 < n) :
    (ShiftOp.ror.times (k + 1) x cf).2 = (ShiftOp.ror.times (k + 1) x cf).1.msb := by
  rw [ShiftOp.times_succ, BitVec.msb_eq_getLsbD_last]
  exact ((getLsbD_shiftInRight (Nat.sub_lt hn Nat.one_pos) _ _).trans (if_pos rfl)).symm

theorem ShiftOp.times_rcl (hn : 0 < n) :
    BitVec.ofBool (ShiftOp.rcl.times k x cf).2 ++ (ShiftOp.rcl.times k x cf).1 =
      (BitVec.ofBool cf ++ x).rotateLeft k :=
  ShiftOp.rcl.times_view (fun y b => BitVec.ofBool b ++ y) (BitVec.ofBool cf ++ x).rotateLeft k
    (rotateLeft_zero _).symm fun k y b h => by rw [ShiftOp.step_rcl y b hn, h, ← rotateLeft_succ]

theorem ShiftOp.times_rcr (hn : 0 < n) :
    BitVec.ofBool (ShiftOp.rcr.times k x cf).2 ++ (ShiftOp.rcr.times k x cf).1 =
      (BitVec.ofBool cf ++ x).rotateRight k :=
  ShiftOp.rcr.times_view (fun y b => BitVec.ofBool b ++ y) (BitVec.ofBool cf ++ x).rotateRight k
    (rotateRight_zero _).symm fun k y b h => by rw [ShiftOp.step_rcr y b hn, h, ← rotateRight_succ]

end

/-! ## The flags -/

/-- The flags after a count other than 0: CF; OF for a count of 1; and SF, ZF and PF of the result of a shift, or as
they were, with AF, after a rotate (R263 to R269). -/
theorem ShiftOp.flags_written {n : Nat} (op : ShiftOp) (f : Flags) (c : Nat) (x r : BitVec n) (cf ov af : Bool) :
    let g := op.flags f c x r cf ov af
    SameControlFlags f g ∧ g.CF = cf ∧ (c = 1 → g.OF = op.overflow1 x r cf)
      ∧ if op.isShift then SzpOf g r else SameSzap f g := by
  have overflow : c = 1 → (if c = 1 then op.overflow1 x r cf else ov) = op.overflow1 x r cf := fun hc => if_pos hc
  unfold ShiftOp.flags
  cases op.isShift with
  | true => exact ⟨⟨rfl, rfl, rfl⟩, rfl, overflow, Flags.szpOf_of_eq (g := f) rfl rfl rfl⟩
  | false => exact ⟨⟨rfl, rfl, rfl⟩, rfl, overflow, rfl, rfl, rfl, rfl⟩

/-! ## The instructions -/

/-- An operand read and written back changed, under new flags and with free values drawn. -/
theorem Reading.rewritten_effect {s u : State} (h : Reading s u) {w : Width} {l : Loc} {a : BitVec w.bits}
    (ha : OperandIs s w l a) (f : Flags) (d : Nat) (r : BitVec w.bits)
    {rel : BitVec w.bits → BitVec w.bits → Flags → Prop} (hc : SameControlFlags s.flags f) (hrel : rel a r f) :
    AluEffect s ({ u with flags := f, draws := d }.writeLoc w l r) w l true rel := by
  obtain ⟨_, _, _, _, _, _, _, _, k⟩ := State.writeLoc_after h f d w l r
  have hf : ({ u with flags := f, draws := d }.writeLoc w l r).flags = f := k.flags
  exact ⟨a, r, ha, hf.symm ▸ hrel, hf.symm ▸ hc, (State.writeLoc_writes _ w l r).ofFlags.before h, k.sameControl⟩

/-- A shift or rotate by a count other than 0 has the effect `rel` where the repeated steps and the flags written with
them are so related (R262). -/
theorem State.shiftRm_effect (s : State) (op : ShiftOp) (v : Count) (w : Width) (rm : RM) {c : Nat}
    (hcount : c = s.count v) (hc : c ≠ 0) {rel : BitVec w.bits → BitVec w.bits → Flags → Prop}
    (hrel : ∀ a g, let r := op.times c a s.flags.CF
      g.CF = r.2 → (c = 1 → g.OF = op.overflow1 a r.1 r.2) → (if op.isShift then SzpOf g r.1 else SameSzap s.flags g) →
        rel a r.1 g) :
    AluEffect s (s.shiftRm op v w rm) w (s.loc rm) true rel := by
  obtain ⟨hcontrol, hcf, hof, hrest⟩ := op.flags_written s.flags c (s.readLoc w (s.loc rm)).1
    (op.times c (s.readLoc w (s.loc rm)).1 s.flags.CF).1 (op.times c (s.readLoc w (s.loc rm)).1 s.flags.CF).2
    (Config.freeBit (s.readLoc w (s.loc rm)).2.draws) (Config.freeBit ((s.readLoc w (s.loc rm)).2.draws + 1))
  unfold State.shiftRm
  simp only [← hcount, if_neg hc]
  exact (s.readLoc_reading w (s.loc rm)).rewritten_effect (s.readLoc_is w (s.loc rm)) _ _ _ hcontrol
    (hrel _ _ hcf hof hrest)

/-- Settles O37: the repeated one-bit steps are one shift, and CF is the bit the last of them puts out. -/
theorem shiftResults : Obligations.ShiftResults := fun s v w rm c hcount hc => by
  have hn := width_bits_pos w
  have hcount : c = s.count v := by cases v <;> exact hcount
  obtain ⟨k, rfl⟩ := Nat.exists_eq_add_one_of_ne_zero hc
  have effect op {rel} := s.shiftRm_effect op v w rm hcount hc (rel := rel)
  refine ⟨⟨_, rfl, effect .shl fun a g hcf hof hszp => ?shl⟩, ⟨_, rfl, effect .shr fun a g hcf hof hszp => ?shr⟩,
    ⟨_, rfl, effect .sar fun a g hcf hof hszp => ?sar⟩⟩
  case shl =>
    obtain ⟨hvalue, hlast⟩ := ShiftOp.shl_result hn k a s.flags.CF
    rw [hcf]
    exact ⟨hvalue, hszp, hlast, hof⟩
  case shr =>
    obtain ⟨hvalue, hlast⟩ := ShiftOp.shr_result k a s.flags.CF
    rw [hcf]
    exact ⟨hvalue, hszp, hlast, hof⟩
  case sar =>
    obtain ⟨hvalue, hlast⟩ := ShiftOp.sar_result hn k a s.flags.CF
    rw [hcf]
    exact ⟨hvalue, hszp, hlast, hof⟩

/-- Settles O38: the repeated one-bit steps are one rotation, of CF and the operand together for RCL and RCR. -/
theorem rotateResults : Obligations.RotateResults := fun s v w rm c hcount hc => by
  have hn := width_bits_pos w
  have hcount : c = s.count v := by cases v <;> exact hcount
  obtain ⟨k, rfl⟩ := Nat.exists_eq_add_one_of_ne_zero hc
  have effect op {rel} := s.shiftRm_effect op v w rm hcount hc (rel := rel)
  refine ⟨⟨_, rfl, effect .rol fun a g hcf hof hszap => ?rol⟩, ⟨_, rfl, effect .ror fun a g hcf hof hszap => ?ror⟩,
    ⟨_, rfl, effect .rcl fun a g hcf hof hszap => ?rcl⟩, ⟨_, rfl, effect .rcr fun a g hcf hof hszap => ?rcr⟩⟩
  case rol =>
    rw [hcf]
    exact ⟨ShiftOp.times_rol _ a _, ShiftOp.rol_carry k a _ hn, hof, hszap⟩
  case ror =>
    rw [hcf]
    exact ⟨ShiftOp.times_ror _ a _, ShiftOp.ror_carry k a _ hn, hof, hszap⟩
  case rcl =>
    rw [hcf]
    exact ⟨ShiftOp.times_rcl _ a _ hn, hof, hszap⟩
  case rcr =>
    rw [hcf]
    exact ⟨ShiftOp.times_rcr _ a _ hn, hof, hszap⟩

end Sys2Proof.Machine
end

section
/-! PROOFS. The string primitives, one iteration of a repetition, and a whole repetition (O40, O41, O42). -/

namespace Sys2Proof.Machine

/-! ## The primitives -/

/-- The model's delta is the element's step (R300). -/
theorem State.delta_eq_elementStep (s : State) (w : Width) : s.delta w = elementStep s w := by
  unfold State.delta elementStep
  cases w <;> cases s.flags.DF <;> rfl

theorem elementStep_of_flags {s t : State} (h : t.flags = s.flags) (w : Width) :
    elementStep t w = elementStep s w := by
  unfold elementStep
  rw [h]

/-- SI and DI written in two states with the same registers. -/
theorem SameRegs.indexed {s t : State} (h : SameRegs s t) (si di : Word) :
    SameRegs { s with SI := si, DI := di } { t with SI := si, DI := di } :=
  (h.setReg .word .siDh si).setReg .word .diBh di

/-- Elements compared after a reading: the flags of their difference, and nothing else but SI and DI (R304, R305). -/
theorem Reading.comparesElement {s u : State} (h : Reading s u) {w : Width} (a b : BitVec w.bits) (si di : Word) :
    ComparesElement s { u.compareFlags a b with SI := si, DI := di } w a b := by
  refine ⟨⟨_, Flags.ofSub_subtractsTo (width_bits_pos w) u.flags a b false⟩, ?_, h.same, h.toTraffic.sameControl⟩
  rw [← h.flags]
  exact ⟨rfl, rfl, rfl⟩

/-- The flags of a comparison are no registers. -/
theorem Reading.compareFlags_sameRegs {s u : State} (h : Reading s u) {n : Nat} (a b : BitVec n) :
    SameRegs s (u.compareFlags a b) :=
  h.sameRegs.trans (SameRegs.ofFlags u _ u.draws)

section
variable (s : State) (w : Width)

theorem State.readSource_reading : Reading s (s.readSource w).2 := s.memRead_reading _ _ _ w

theorem State.readSource_reads : Reads s (s.sreg s.dataSeg) s.SI w (s.readSource w).1 := s.memRead_reads _ _ _ w

theorem State.readDest_reading : Reading s (s.readDest w).2 := s.memRead_reading _ _ _ w

theorem State.readDest_reads : Reads s s.ES s.DI w (s.readDest w).1 := s.memRead_reads _ _ _ w

/-- MOVS stores at ES:DI the element it has read (R303). -/
theorem State.movsOnce_effect : PrimitiveEffect (.movs w) s (s.movsOnce w) := by
  have hread := s.readSource_reading w
  have hwrite := (s.readSource w).2.memWrite_traffic .es s.ES s.DI w (s.readSource w).1
  have hstores := (s.readSource w).2.memWrite_stores .es s.ES s.DI w (s.readSource w).1
  have htraffic := hread.toTraffic.trans hwrite
  rw [PrimitiveEffect, ← s.delta_eq_elementStep w]
  exact ⟨_, s.readSource_reads w, MemoryAfter.before hread hstores, htraffic.sameRegs.indexed _ _, htraffic.flags,
    htraffic.sameControl⟩

/-- CMPS compares the element at SI with the one at ES:DI, read in this order (R304). -/
theorem State.cmpsOnce_effect : PrimitiveEffect (.cmps w) s (s.cmpsOnce w) := by
  have hsource := s.readSource_reading w
  have hdest := (s.readSource w).2.readDest_reads w
  have hread := hsource.trans ((s.readSource w).2.readDest_reading w)
  rw [hsource.ES, hsource.DI] at hdest
  rw [PrimitiveEffect, ← s.delta_eq_elementStep w]
  exact ⟨_, _, s.readSource_reads w, hdest.before hsource, hread.comparesElement _ _ _ _,
    (hread.compareFlags_sameRegs _ _).indexed _ _⟩

/-- SCAS compares the accumulator with the element at ES:DI (R305). -/
theorem State.scasOnce_effect : PrimitiveEffect (.scas w) s (s.scasOnce w) := by
  have hread := s.readDest_reading w
  rw [PrimitiveEffect, ← s.delta_eq_elementStep w]
  exact ⟨_, s.readDest_reads w, hread.comparesElement _ _ (s.readDest w).2.SI _,
    (hread.compareFlags_sameRegs _ _).setReg .word .diBh _⟩

/-- LODS loads the element at SI into the accumulator (R306). -/
theorem State.lodsOnce_effect : PrimitiveEffect (.lods w) s (s.lodsOnce w) := by
  have hloaded := (s.readSource_reading w).setsRegs.setReg w .axAl (s.readSource w).1
  rw [PrimitiveEffect, ← s.delta_eq_elementStep w]
  exact ⟨_, s.readSource_reads w, hloaded.setReg .word .siDh _⟩

/-- STOS stores the accumulator at ES:DI (R307). -/
theorem State.stosOnce_effect : PrimitiveEffect (.stos w) s (s.stosOnce w) := by
  have hwrite := s.memWrite_traffic .es s.ES s.DI w (s.acc w)
  rw [PrimitiveEffect, ← s.delta_eq_elementStep w]
  exact ⟨s.memWrite_stores .es s.ES s.DI w (s.acc w), hwrite.sameRegs.setReg .word .diBh _, hwrite.flags,
    hwrite.sameControl⟩

end

/-- A string instruction iterates an operation that has its primitive's effect (R300). -/
theorem exec_string {i : Instr} (h : isStringInstr i = true) (s : State) :
    ∃ compares once, exec i s = .next (s.iterate i compares once) ∧ PrimitiveEffect i s (once s)
      ∧ (compares = true ↔ isCompare i) := by
  cases i with
  | movs w => exact ⟨_, _, rfl, s.movsOnce_effect w, Bool.false_eq_true.to_iff⟩
  | cmps w => exact ⟨_, _, rfl, s.cmpsOnce_effect w, ⟨fun _ => trivial, fun _ => rfl⟩⟩
  | scas w => exact ⟨_, _, rfl, s.scasOnce_effect w, ⟨fun _ => trivial, fun _ => rfl⟩⟩
  | lods w => exact ⟨_, _, rfl, s.lodsOnce_effect w, Bool.false_eq_true.to_iff⟩
  | stos w => exact ⟨_, _, rfl, s.stosOnce_effect w, Bool.false_eq_true.to_iff⟩
  | _ => cases h

/-- No primitive touches CX, the prefixes or the repetition (R300, R303 to R307). -/
theorem PrimitiveEffect.frame {i : Instr} {s t : State} (h : PrimitiveEffect i s t) :
    t.CX = s.CX ∧ SameControl s t := by
  cases i with
  | movs w =>
    obtain ⟨_, -, -, hregs, -, hcontrol⟩ := h
    exact ⟨hregs .cx, hcontrol⟩
  | cmps w =>
    obtain ⟨_, _, -, -, ⟨-, -, -, hcontrol⟩, hregs⟩ := h
    exact ⟨hregs .cx, hcontrol⟩
  | scas w =>
    obtain ⟨_, -, ⟨-, -, -, hcontrol⟩, hregs⟩ := h
    exact ⟨hregs .cx, hcontrol⟩
  | lods w =>
    obtain ⟨_, -, hregs, -, -, hcontrol⟩ := h
    exact ⟨(hregs .cx).trans (by cases w <;> rfl), hcontrol⟩
  | stos w =>
    obtain ⟨-, hregs, -, hcontrol⟩ := h
    exact ⟨hregs .cx, hcontrol⟩
  | _ => exact h.elim

theorem SameControl.repeating_eq {s t : State} (h : SameControl s t) : t.repeating = s.repeating := by
  obtain ⟨-, -, -, -, -, ⟨-, -, -, hrepeating, -⟩, -⟩ := h
  exact hrepeating

theorem SameControl.rep_eq {s t : State} (h : SameControl s t) : t.rep = s.rep := by
  obtain ⟨-, -, -, -, -, ⟨-, hrep, -⟩, -⟩ := h
  exact hrep

/-! ## Iterations -/

section
variable {s : State} {i : Instr} {compares : Bool} {once : State → State}

/-- Without a repeat prefix the primitive runs once (R300). -/
theorem State.iterate_unrepeated (h : s.rep = none) :
    s.iterate i compares once = { once s with repeating := none } := by
  rw [State.iterate, h]

/-- A repetition with CX = 0 does nothing (R301). -/
theorem State.iterate_done {z : Bool} (h : s.rep = some z) (hcx : s.CX = 0#16) :
    s.iterate i compares once = { s with repeating := none } := by
  simp only [State.iterate, h, if_pos hcx]

/-- A repetition with CX not 0 runs the primitive and counts down (R301, R302). -/
theorem State.iterate_counts {z : Bool} (h : s.rep = some z) (hcx : s.CX ≠ 0#16) :
    s.iterate i compares once =
      { once s with
        CX := s.CX - 1#16
        repeating :=
          if s.CX - 1#16 != 0#16 && !(compares && (once s).flags.ZF != z) then some i else none } := by
  simp only [State.iterate, h, if_neg hcx]

end

/-- Settles O40: without a repeat prefix a string instruction is its primitive, with no repetition in progress. -/
theorem stringPrimitiveOnce : Obligations.StringPrimitiveOnce := fun i s hi hrep => by
  obtain ⟨compares, once, hexec, heffect, -⟩ := exec_string hi s
  obtain ⟨-, hcontrol⟩ := heffect.frame
  refine ⟨_, hexec.trans (congrArg _ (State.iterate_unrepeated hrep)), rfl, ?_⟩
  rw [← hcontrol.repeating_eq]
  exact heffect

/-- Settles O41: under a repeat prefix one iteration is the primitive with CX counted down, and none is run for CX
= 0. -/
theorem repeatedIteration : Obligations.RepeatedIteration := fun i s z hi hrep => by
  obtain ⟨compares, once, hexec, heffect, hcompares⟩ := exec_string hi s
  obtain ⟨hcx, hcontrol⟩ := heffect.frame
  refine ⟨fun hzero => hexec.trans (congrArg _ (State.iterate_done hrep hzero)), fun hcount =>
    ⟨_, hexec.trans (congrArg _ (State.iterate_counts hrep hcount)), rfl, ?effect, ?left, ?more⟩⟩
  case effect =>
    rw [← hcx, ← hcontrol.repeating_eq]
    exact heffect
  case left =>
    split
    · exact .inl rfl
    · exact .inr rfl
  case more =>
    rw [← hcompares]
    cases compares <;> simp

/-! ## A whole repetition of MOVS, LODS or STOS -/

/-- From `s` to `t` the repetition of `i` went on by `k` elements of width `w`: SI and DI have moved, except SI for
STOS and DI for LODS, and the flags and the repeat prefix are the same (R301, R303, R306, R307). -/
structure Advanced (i : Instr) (w : Width) (k : Word) (s t : State) : Prop where
  flags : t.flags = s.flags
  rep : t.rep = s.rep
  source : t.SI = if i = .stos w then s.SI else s.SI + k * elementStep s w
  dest : t.DI = if i = .lods w then s.DI else s.DI + k * elementStep s w

/-- An index moved by some elements and then by more. -/
theorem index_moved_twice (x j k e : Word) : x + j * e + k * e = x + (j + k) * e := by
  rw [BitVec.add_assoc, BitVec.add_mul]

theorem Advanced.refl (i : Instr) (w : Width) (s : State) : Advanced i w 0#16 s s := by
  constructor <;> simp

theorem Advanced.trans {i : Instr} {w : Width} {j k : Word} {s t u : State} (h : Advanced i w j s t)
    (l : Advanced i w k t u) : Advanced i w (j + k) s u := by
  have hstep := elementStep_of_flags h.flags w
  refine ⟨l.flags.trans h.flags, l.rep.trans h.rep, ?_, ?_⟩
  · rw [l.source, h.source, hstep, ← index_moved_twice]
    split <;> rfl
  · rw [l.dest, h.dest, hstep, ← index_moved_twice]
    split <;> rfl

/-- A primitive that compares nothing goes on by one element (R303, R306, R307). -/
theorem PrimitiveEffect.advanced {i : Instr} {w : Width} {s t : State} (hi : i = .movs w ∨ i = .lods w ∨ i = .stos w)
    (h : PrimitiveEffect i s t) : Advanced i w 1#16 s t := by
  obtain ⟨-, hcontrol⟩ := h.frame
  obtain rfl | rfl | rfl := hi
  · obtain ⟨_, -, -, hregs, hflags, -⟩ := h
    have hsi : t.SI = s.SI + elementStep s w := hregs .si
    have hdi : t.DI = s.DI + elementStep s w := hregs .di
    exact ⟨hflags, hcontrol.rep_eq, by simpa using hsi, by simpa using hdi⟩
  · obtain ⟨_, -, hregs, -, hflags, -⟩ := h
    have hsi : t.SI = s.SI + elementStep s w := hregs .si
    have hdi : t.DI = s.DI := (hregs .di).trans (by cases w <;> rfl)
    exact ⟨hflags, hcontrol.rep_eq, by simpa using hsi, by simpa using hdi⟩
  · obtain ⟨-, hregs, hflags, -⟩ := h
    have hsi : t.SI = s.SI := hregs .si
    have hdi : t.DI = s.DI + elementStep s w := hregs .di
    exact ⟨hflags, hcontrol.rep_eq, by simpa using hsi, by simpa using hdi⟩

/-- One iteration of a repetition that compares nothing: an element further, CX less 1, and over exactly when CX is then
0 (R301, R302). -/
theorem exec_advances {i : Instr} {w : Width} (hi : i = .movs w ∨ i = .lods w ∨ i = .stos w) {s : State} {z : Bool}
    (hrep : s.rep = some z) (hcx : s.CX ≠ 0#16) :
    ∃ t, exec i s = .next t ∧ t.CX = s.CX - 1#16 ∧ Advanced i w 1#16 s t ∧ (t.CX = 0#16 → t.repeating = none) := by
  have hstring : isStringInstr i = true := by obtain rfl | rfl | rfl := hi <;> rfl
  obtain ⟨-, hcounts⟩ := repeatedIteration i s z hstring hrep
  obtain ⟨t, hexec, hcount, heffect, hends, hgoes⟩ := hcounts hcx
  obtain ⟨hflags, hkept, hsource, hdest⟩ := heffect.advanced hi
  exact ⟨t, hexec, hcount, ⟨hflags, hkept, hsource, hdest⟩, fun hzero =>
    hends.resolve_left fun hmore => (hgoes.mp hmore).left hzero⟩

/-- A repetition that compares nothing runs as many iterations as CX says (R301). -/
theorem execTimes_advances {i : Instr} {w : Width} (hi : i = .movs w ∨ i = .lods w ∨ i = .stos w) {z : Bool} (n : Nat)
    (s : State) (hn : s.CX.toNat = n) (hrep : s.rep = some z) :
    ∃ t, execTimes i n s = .next t ∧ t.CX = 0#16 ∧ Advanced i w s.CX s t ∧ (s.CX ≠ 0#16 → t.repeating = none) := by
  induction n generalizing s with
  | zero =>
    have hzero : s.CX = 0#16 := BitVec.eq_of_toNat_eq hn
    exact ⟨s, rfl, hzero, hzero ▸ Advanced.refl i w s, fun h => absurd hzero h⟩
  | succ n ih =>
    have hcx : s.CX ≠ 0#16 := fun h => by simp [h] at hn
    obtain ⟨t, hexec, hcount, hone, hlast⟩ := exec_advances hi hrep hcx
    obtain ⟨u, hrest, hzero, hmany, hover⟩ := ih t (by rw [hcount]; bv_omega) (hone.rep.trans hrep)
    have hall : 1#16 + t.CX = s.CX := by rw [hcount, BitVec.add_comm, BitVec.sub_add_cancel]
    refine ⟨u, by rw [execTimes, hexec]; exact hrest, hzero, hall ▸ hone.trans hmany, fun _ => ?_⟩
    by_cases ht : t.CX = 0#16
    · obtain rfl : n = 0 := by rw [ht] at hcount; bv_omega
      cases hrest
      exact hlast ht
    · exact hover ht

/-- Settles O42: by induction on CX, each iteration going on by one element. -/
theorem repeatRunsCxTimes : Obligations.RepeatRunsCxTimes := fun i s z w hi hrep => by
  obtain ⟨t, hexec, hzero, hmoved, hover⟩ := execTimes_advances hi s.CX.toNat s rfl hrep
  exact ⟨t, hexec, hzero, hmoved.flags, hmoved.source, hmoved.dest, hover⟩

end Sys2Proof.Machine
end

section
/-! PROOFS. The transfers that push and pop nothing, and software interrupts with their return (O44, O46 to O49). -/

namespace Sys2Proof.Machine

/-! ## JMP -/

/-- A jump after a reading (R330): control is at the target, and no register, flag or byte has changed. -/
theorem Reading.jumpFar {s u : State} (h : Reading s u) (cs ip : Word) :
    GoesTo s (u.jumpFar cs ip) cs ip ∧ SameRegs s (u.jumpFar cs ip) ∧ SameMemory s (u.jumpFar cs ip)
      ∧ (u.jumpFar cs ip).flags = s.flags :=
  Reading.returns (sp := s.SP) h cs ip

/-- A jump within the segment after a reading keeps CS (R330). -/
theorem Reading.jumpNear {s u : State} (h : Reading s u) (ip : Word) :
    GoesTo s (u.jumpNear ip) s.CS ip ∧ SameRegs s (u.jumpNear ip) ∧ SameMemory s (u.jumpNear ip)
      ∧ (u.jumpNear ip).flags = s.flags := by
  rw [State.jumpNear_eq, h.CS]
  exact h.jumpFar s.CS ip

/-- Settles O44: every JMP goes to its target, which an indirect form reads first. -/
theorem jumpResults : Obligations.JumpResults := fun s => by
  have now := Reading.refl s
  exact ⟨fun _ => ⟨_, rfl, now.jumpNear _⟩, fun _ => ⟨_, rfl, now.jumpNear _⟩,
    fun rm => ⟨_, _, s.readLoc_is .word (s.loc rm), rfl, (s.readLoc_reading .word (s.loc rm)).jumpNear _⟩,
    fun _ _ => ⟨_, rfl, now.jumpFar _ _⟩,
    fun m => ⟨_, _, _, (s.readPointer_reads m).1, (s.readPointer_reads m).2, rfl,
      (s.readPointer_reading m).jumpFar _ _⟩⟩

/-! ## Conditional jumps -/

/-- A short jump by its condition (R350): taken, it moves IP and empties the queue; else nothing changes. -/
theorem State.jumpIf_eq (s : State) (disp : Byte) {c : Bool} {p : Prop} [Decidable p] (h : c = true ↔ p) :
    s.jumpIf c disp = if p then { s with IP := s.IP + disp.signExtend 16, queue := [] } else s := by
  by_cases hp : p
  · rw [if_pos hp, h.mpr hp]
    rfl
  · rw [if_neg hp, Bool.eq_false_iff.mpr (mt h.mp hp)]
    rfl

/-- Each conditional jump tests by a Boolean what R350's table says (R351 to R366). -/
theorem exec_jumpTable (s : State) (disp : Byte) :
    ∀ p ∈ jumpTable disp s.flags, ∃ c : Bool, exec p.1 s = .next (s.jumpIf c disp) ∧ (c = true ↔ p.2) := by
  simp only [jumpTable, List.forall_mem_cons]
  refine ⟨?o, ?no, ?b, ?nb, ?e, ?ne, ?be, ?nbe, ?s, ?ns, ?p, ?np, ?l, ?nl, ?le, ?nle, fun _ h => nomatch h⟩
  case o | b | e | s | p => exact ⟨_, rfl, Iff.rfl⟩
  case no | nb | ne | ns | np => exact ⟨_, rfl, .of_eq (Bool.not_eq_true' _)⟩
  case be => exact ⟨_, rfl, by rw [Bool.or_eq_true]⟩
  case nbe => exact ⟨_, rfl, by rw [Bool.and_eq_true, Bool.not_eq_true', Bool.not_eq_true']⟩
  case l => exact ⟨_, rfl, bne_iff_ne⟩
  case nl => exact ⟨_, rfl, beq_iff_eq⟩
  case le => exact ⟨_, rfl, by rw [Bool.or_eq_true, bne_iff_ne]⟩
  case nle => exact ⟨_, rfl, by rw [Bool.and_eq_true, Bool.not_eq_true', beq_iff_eq]⟩

/-- Settles O46: the Boolean each jump tests decides the table's condition. -/
theorem conditionalJumpResults : Obligations.ConditionalJumpResults := fun s disp p hp => by
  classical
  obtain ⟨c, hexec, hc⟩ := exec_jumpTable s disp p hp
  rw [hexec, s.jumpIf_eq disp hc]
  exact ⟨fun h => by rw [if_pos h], fun h => by rw [if_neg h]⟩

/-! ## Loops -/

/-- The loop count is not 0 after the decrement unless it was 1 (R380). -/
theorem countDown_ne_zero (x : Word) : (x - 1#16 != 0#16) = true ↔ ¬ x = 1#16 := by
  rw [bne_iff_ne, ne_eq, BitVec.sub_eq_iff_eq_add, BitVec.zero_add]

/-- A loop ends or goes back, with CX counted down in both cases (R380 to R382). -/
theorem State.countDown_jumpIf_eq (s : State) (disp : Byte) {c : Bool} {ends : Prop} [Decidable ends]
    (h : c = true ↔ ¬ ends) :
    s.countDown.jumpIf c disp =
      if ends then s.countDown else { s.countDown with IP := s.IP + disp.signExtend 16, queue := [] } := by
  rw [s.countDown.jumpIf_eq disp h, ite_not]
  rfl

/-- Settles O47: the loops jump by the count left and ZF, JCXZ by the count there is. -/
theorem loopResults : Obligations.LoopResults := by
  rintro s _ _ disp rfl rfl
  have counted := countDown_ne_zero s.CX
  refine ⟨congrArg _ (s.countDown_jumpIf_eq disp counted), congrArg _ (s.countDown_jumpIf_eq disp ?z),
    congrArg _ (s.countDown_jumpIf_eq disp ?nz), congrArg _ (s.jumpIf_eq disp beq_iff_eq)⟩
  case z => rw [Bool.and_eq_true, counted, not_or, Bool.not_eq_false]
  case nz => rw [Bool.and_eq_true, counted, not_or, Bool.not_eq_true, Bool.not_eq_true']

/-! ## Software interrupts and return -/

/-- INTO is type 4 where OF is 1, and else nothing (R392). -/
theorem exec_into (s : State) :
    exec .into s = .next (if s.flags.OF = true then s.interrupt 0x04#8 s.IP else s) := rfl

/-- Settles O48: each is the interrupt sequence of its type, INTO only where OF is 1. -/
theorem softwareInterruptResults : Obligations.SoftwareInterruptResults := fun s => by
  refine ⟨fun n => ⟨_, rfl, s.interrupt_taken n s.IP⟩, ⟨_, rfl, s.interrupt_taken 0x03#8 s.IP⟩, fun hof => ?_,
    fun hof => ?_⟩
  · exact ⟨_, (exec_into s).trans (congrArg _ (if_pos hof)), s.interrupt_taken 0x04#8 s.IP⟩
  · exact (exec_into s).trans (congrArg _ (if_neg (by simp [hof])))

/-- Settles O49: IP, CS and FLAGS are the three words popped. -/
theorem interruptReturnResult : Obligations.InterruptReturnResult := fun s =>
  ⟨_, _, _, _, s.pop16_reads, s.pop16_second_reads, s.pop16_third_reads, rfl, s.interruptReturn_returns⟩

end Sys2Proof.Machine
end

section
/-! PROOFS. The flag instructions (O51). -/

namespace Sys2Proof.Machine

/-- Setting IF where it is 1 changes no flag (R37). -/
theorem Flags.setIF_of_IF {f : Flags} (h : f.IF = true) : { f with IF := true } = f := by
  rw [← h]

/-- STI sets IF, and adds the INTR shadow to one there may be only where it finds IF = 0 (R406, R437 c). -/
theorem exec_sti (s : State) :
    exec .sti s = .next { s with flags.IF := true, stiShadow := s.stiShadow || !s.flags.IF } := rfl

/-- Settles O51: six assign one flag each, and STI goes by the IF it finds. -/
theorem flagInstructionResults : Obligations.FlagInstructionResults := fun s => by
  refine ⟨rfl, rfl, rfl, rfl, rfl, rfl, fun hoff => ?_, fun hon => ?_⟩
  · rw [exec_sti, hoff, Bool.not_false, Bool.or_true]
  · rw [exec_sti, Flags.setIF_of_IF hon, hon, Bool.not_true, Bool.or_false]

end Sys2Proof.Machine
end

section
/-! PROOFS. The INTR and the single-step trap taken at a boundary (O54, O55): how the trace grows, and what a recognised
interrupt does. -/

namespace Sys2Proof.Machine

/-! ## How the trace grows -/

/-- From `s` to `t` the trace has grown by instruction fetches alone (R77). -/
def FetchesOnly (s t : State) : Prop := ∃ l, t.bus = l ++ s.bus ∧ ∀ c ∈ l, c.kind = .code

theorem FetchesOnly.of_bus {s t : State} (h : t.bus = s.bus) : FetchesOnly s t := ⟨[], h, nofun⟩

theorem FetchesOnly.trans {s t u : State} (h : FetchesOnly s t) (k : FetchesOnly t u) : FetchesOnly s u := by
  obtain ⟨l, hl, hcode⟩ := h
  obtain ⟨m, hm, kcode⟩ := k
  refine ⟨m ++ l, by rw [hm, hl, List.append_assoc], fun c hc => ?_⟩
  exact (List.mem_append.mp hc).elim (kcode c) (hcode c)

/-- The newest cycle comes first, so the trace there was is the end of the trace there is (log 13). -/
theorem FetchesOnly.suffix {s t : State} (h : FetchesOnly s t) : s.bus <:+ t.bus := by
  obtain ⟨l, hl, -⟩ := h
  exact ⟨l, hl.symm⟩

theorem State.prefetchMany_fetches (n : Nat) (s : State) : FetchesOnly s (State.prefetchMany n s) := by
  induction n generalizing s with
  | zero => exact .of_bus rfl
  | succ n ih =>
    have hone : FetchesOnly s s.prefetchOne := ⟨[_], rfl, fun c hc => by rw [List.mem_singleton.mp hc]; rfl⟩
    exact hone.trans (ih s.prefetchOne)

theorem State.prefetchIf_fetches (s : State) (c : Bool) : FetchesOnly s (s.prefetchIf c) := by
  show FetchesOnly s (if _ then _ else _)
  split
  · exact State.prefetchMany_fetches _ { s with draws := s.draws + 1 }
  · exact .of_bus rfl

theorem State.honour_fetches (c : Bool) (ws : List (PAddr × Byte)) (s : State) :
    FetchesOnly s (State.honour c ws s) := by
  induction ws generalizing s with
  | nil => exact .of_bus rfl
  | cons w ws ih => exact (State.prefetchIf_fetches (s.storeByte w.1 w.2) c).trans (ih _)

theorem State.arbitrate_fetches (s : State) (g : Gap) : FetchesOnly s (s.arbitrate g) := by
  show FetchesOnly s (if _ then _ else _)
  split
  · exact State.honour_fetches _ _ s
  · exact .of_bus rfl

/-- The chip's own cycles before a bus cycle of an instruction are prefetches (R85). -/
theorem State.gap_fetches (s : State) (g : Gap) : FetchesOnly s (s.gap g) :=
  (s.prefetchIf_fetches _).trans (State.arbitrate_fetches _ g)

/-- Nothing comes between the acknowledge cycles (R441). -/
theorem State.gap_acknowledge_bus (s : State) : (s.gap .acknowledge).bus = s.bus := rfl

theorem State.readPhys_bus_suffix (s : State) (g : Gap) (sg : SegStatus) (pa : PAddr) :
    s.bus <:+ (s.readPhys g sg pa).2.bus := (s.gap_fetches g).suffix.trans (List.suffix_cons _ _)

theorem State.writePhys_bus_suffix (s : State) (g : Gap) (sg : SegStatus) (pa : PAddr) (v : Byte) :
    s.bus <:+ (s.writePhys g sg pa v).bus := (s.gap_fetches g).suffix.trans (List.suffix_cons _ _)

theorem State.push16_bus_suffix (s : State) (v : Word) : s.bus <:+ (s.push16 v).bus :=
  (State.writePhys_bus_suffix { s with SP := s.SP - 2#16 } _ _ _ _).trans (State.writePhys_bus_suffix _ _ _ _ _)

theorem State.readVector_bus_suffix (s : State) (ty : Byte) (k : Nat) : s.bus <:+ (s.readVector ty k).2.bus :=
  (s.readPhys_bus_suffix _ _ _).trans (State.readPhys_bus_suffix _ _ _ _)

theorem State.pushFrame_bus_suffix (s : State) (ip : Word) : s.bus <:+ (s.pushFrame ip).bus := by
  rw [State.pushFrame_eq]
  have hflags : s.bus <:+ State.bus { s.push16 (s.flags.image s.params.flagsX) with
      flags := { s.flags with IF := false, TF := false } } := s.push16_bus_suffix _
  exact hflags.trans ((State.push16_bus_suffix _ s.CS).trans (State.push16_bus_suffix _ ip))

/-- The interrupt sequence runs its cycles after those there were (R440). -/
theorem State.interrupt_bus_suffix (s : State) (ty : Byte) (ip : Word) : s.bus <:+ (s.interrupt ty ip).bus := by
  have hread := (s.pushFrame_bus_suffix ip).trans
    ((State.readVector_bus_suffix _ ty 0).trans (State.readVector_bus_suffix _ ty 2))
  unfold State.interrupt
  simp only []
  generalize ((s.pushFrame ip).readVector ty 0).2.readVector ty 2 = cs at hread ⊢
  exact hread

theorem State.takeInterrupt_bus_suffix (s : State) (ty : Byte) : s.bus <:+ (s.takeInterrupt ty).bus :=
  State.interrupt_bus_suffix { s with lock := false } ty s.savedIP

/-- The acknowledge sequence: two cycles with none between, the type in the second and LOCK in the first in maximum
mode; prefetches may come before (R441). -/
theorem State.acknowledge_bus (s : State) (ty : Byte) :
    ∃ earlier, (s.acknowledge ty).bus =
        { kind := .inta, seg := .codeOrNone, addr := none, data := some ty, s5 := s.flags.IF, lock := false }
          :: { kind := .inta, seg := .codeOrNone, addr := none, data := none, s5 := s.flags.IF
               lock := s.params.mode == .max } :: (earlier ++ s.bus)
      ∧ ∀ c ∈ earlier, c.kind = .code := by
  obtain ⟨earlier, hbus, hcode⟩ := s.gap_fetches .free
  refine ⟨earlier, ?_, hcode⟩
  rw [← hbus]
  simp only [State.acknowledge, State.logCycle_bus, State.gap_acknowledge_bus]

/-! ## A recognised interrupt -/

/-- Inside a repetition the IP saved is that of the byte before the opcode (R302, R448). -/
theorem State.savedIP_eq (s : State) : s.savedIP = if s.repeating = none then s.IP else s.IP - 2#16 := by
  unfold State.savedIP
  cases s.repeating <;> rfl

/-- Ending LOCK where it is not in force changes nothing (R411). -/
theorem State.setLock_of_lock {s : State} (h : s.lock = false) : { s with lock := false } = s := by rw [← h]

/-- A step at a boundary where an interrupt is recognised takes it (R438). -/
theorem step_takes {s u v : State} {ty : Byte} (hs : s.Sampled u) (hp : u.noPrefix ∨ u.repeating ≠ none)
    (hf : u.fullShadow = false) (hr : u.recognised = some (ty, v)) :
    step s = .next (s.ended u (v.takeInterrupt ty)) := by
  have hb : u.boundary = .next (v.takeInterrupt ty) := by
    simp [State.boundary, State.midInstruction_false hp, hf, hr]
  rw [State.advance_sampled hs, hb]
  rfl

/-- What taking an interrupt does where recognising it has set the latch and the trap due and is otherwise a reading
(R438, R440): the sequence, after which the shadows are over; LOCK is over before it. -/
theorem State.takeInterrupt_taken {s u : State} {nmi trap : Bool}
    (h : Reading { s with nmiLatch := nmi, trapDue := trap, lock := false } { u with lock := false }) (ty : Byte) :
    InterruptTaken { s with lock := false } (u.takeInterrupt ty) ty
        (if s.repeating = none then s.IP else s.IP - 2#16)
      ∧ (u.takeInterrupt ty).nmiLatch = nmi ∧ (u.takeInterrupt ty).trapDue = trap
      ∧ (u.takeInterrupt ty).afterSeq = true ∧ (u.takeInterrupt ty).fullShadow = false
      ∧ (u.takeInterrupt ty).stiShadow = false := by
  have hsaved : u.savedIP = if s.repeating = none then s.IP else s.IP - 2#16 := by
    have hip : u.IP = s.IP := h.IP
    have hrep : u.repeating = s.repeating := h.repeating
    rw [u.savedIP_eq, hip, hrep]
  rw [State.takeInterrupt, hsaved]
  obtain ⟨htaken, hnmi, -, -, htrap, -⟩ := State.interrupt_taken { u with lock := false } ty
    (if s.repeating = none then s.IP else s.IP - 2#16)
  have htaken := htaken.before h
  exact ⟨htaken, hnmi.trans h.nmiLatch, htrap.trans h.trapDue, rfl, rfl, rfl⟩

/-- An INTR is recognised where no NMI is pending and no trap is due right after a hardware sequence (R438). -/
theorem State.recognised_intr {s : State} {p : PinSample} (hfresh : s.fresh = false)
    (hseq : s.afterSeq = false ∨ s.trapDue = false) (hnmi : s.nmiLatch = false) (hp : s.pins = some p)
    (hi : s.IntrAccepted) :
    s.recognised = some (p.intaType, State.acknowledge { s with lock := false } p.intaType) := by
  obtain ⟨ty, u, hext, -, -, hack⟩ := State.external_some (.inr hi)
  obtain ⟨q, hq, rfl, rfl⟩ := hack hnmi
  obtain rfl : q = p := Option.some.inj (hq.symm.trans hp)
  rcases hseq with h | h <;> simp [State.recognised, hfresh, h, State.trap, hext]

/-- The trap due is recognised right after a hardware sequence, and where nothing external is accepted (R438, R446). -/
theorem State.recognised_trap {s : State} (hfresh : s.fresh = false) (htrap : s.trapDue = true)
    (h : s.afterSeq = true ∨ (s.nmiLatch = false ∧ ¬ s.IntrAccepted)) :
    s.recognised = some (0x01#8, { s with trapDue := false }) := by
  have ht : s.trap = some (0x01#8, { s with trapDue := false }) := by simp [State.trap, htrap]
  rcases h with h | ⟨hnmi, hintr⟩
  · simp [State.recognised, hfresh, h, ht]
  · simp [State.recognised, hfresh, State.external_none hnmi hintr, ht]

/-- Settles O54: the acknowledge sequence reads the type, and the interrupt sequence follows it on the trace. -/
theorem intrTaken : Obligations.IntrTaken := by
  intro s u p hs hp hf hfresh hseq hnmi hpins hi
  have hstep := step_takes hs hp hf (State.recognised_intr hfresh hseq hnmi hpins hi)
  obtain ⟨-, -, -, hif, -⟩ := hi
  obtain ⟨earlier, hack, hcode⟩ := State.acknowledge_bus { u with lock := false } p.intaType
  have hread := State.acknowledge_reading { u with lock := false } p.intaType
  generalize State.acknowledge { u with lock := false } p.intaType = v at hack hread hstep
  have hlock : v.lock = false := hread.lock
  have hsame : Reading { u with nmiLatch := u.nmiLatch, trapDue := u.trapDue, lock := false }
      { v with lock := false } := by
    rw [State.setLock_of_lock hlock]
    exact hread
  obtain ⟨htaken, hlatch, htrap, hafter, hfull, hsti⟩ := State.takeInterrupt_taken hsame p.intaType
  obtain ⟨later, hlater⟩ := v.takeInterrupt_bus_suffix p.intaType
  rw [hack, hif] at hlater
  exact ⟨_, later, earlier, hstep, htaken, hlatch.trans hnmi, htrap, hafter, hfull, hsti, hlater.symm, hcode⟩

/-- Settles O55: the trap is recognised, and taking it leaves no other due. -/
theorem singleStepTaken : Obligations.SingleStepTaken := by
  intro s u hs hp hf hfresh htrap h
  obtain ⟨htaken, hnmi, hdue, hseq, -⟩ := State.takeInterrupt_taken (s := u) (u := { u with trapDue := false })
    (nmi := u.nmiLatch) (trap := false) (Reading.refl _) 0x01#8
  exact ⟨_, step_takes hs hp hf (State.recognised_trap hfresh htrap h), htaken, hdue, hnmi, hseq⟩

end Sys2Proof.Machine
end

section
/-! PROOFS. What an instruction can do, said once: the parts of the state that only some instructions change, what its
bus cycles do, and one case for each way an instruction changes the control of the chip. -/

namespace Sys2Proof.Machine

/-! ## The two parts of the state -/

/-- What only some instructions change: the segment registers, the control flags and the state of the chip around an
instruction (R25, R36 to R38, R45). -/
structure ControlPart where
  CS : Word
  ES : Word
  SS : Word
  DS : Word
  TF : Bool
  IF : Bool
  DF : Bool
  nmiLatch : Bool
  fullShadow : Bool
  stiShadow : Bool
  halted : Bool
  waiting : Bool
  ovr : Option SReg
  rep : Option Bool
  lock : Bool
  repeating : Option Instr
  busGranted : Bool
  stalled : Bool
  trapDue : Bool
  afterSeq : Bool
  fresh : Bool

/-- What bus cycles, and what comes between them, change and a statement speaks of (R64, R80, R85). -/
structure BusPart where
  mem : List Host.Cell
  queue : List Byte
  bus : List BusCycle
  gaps : List (List BusRequest)
  requests : List BusRequest

/-- The control of a state. -/
def State.control (s : State) : ControlPart :=
  { CS := s.CS, ES := s.ES, SS := s.SS, DS := s.DS, TF := s.flags.TF, IF := s.flags.IF, DF := s.flags.DF
    nmiLatch := s.nmiLatch, fullShadow := s.fullShadow, stiShadow := s.stiShadow, halted := s.halted
    waiting := s.waiting, ovr := s.ovr, rep := s.rep, lock := s.lock, repeating := s.repeating
    busGranted := s.busGranted, stalled := s.stalled, trapDue := s.trapDue, afterSeq := s.afterSeq, fresh := s.fresh }

/-- What the bus has to do with a state. -/
def State.busPart (s : State) : BusPart :=
  { mem := s.mem, queue := s.queue, bus := s.bus, gaps := s.gaps, requests := s.requests }

/-- What bus cycles do: memory stays canonical, the queue keeps what it has in front and holds at most four bytes, and
where no cycle was run nothing has changed. -/
structure Cycles (a b : BusPart) : Prop where
  wf : Memory.wf a.mem → Memory.wf b.mem
  length : a.queue.length ≤ 4 → b.queue.length ≤ 4
  front : a.queue <+: b.queue
  active : b = a ∨ a.bus.length < b.bus.length

theorem Cycles.refl (a : BusPart) : Cycles a a := ⟨id, id, List.prefix_rfl, .inl rfl⟩

theorem Cycles.trans {a b c : BusPart} (h : Cycles a b) (k : Cycles b c) : Cycles a c := by
  refine ⟨k.wf ∘ h.wf, k.length ∘ h.length, h.front.trans k.front, ?_⟩
  rcases h.active with rfl | h1
  · exact k.active
  · rcases k.active with rfl | k1
    · exact .inr h1
    · exact .inr (h1.trans k1)

/-- From `s` to `t` only general registers, IP, the status flags and what bus cycles use up differ. -/
def Ordinary (s t : State) : Prop := t.control = s.control ∧ Cycles s.busPart t.busPart

theorem Ordinary.refl (s : State) : Ordinary s s := ⟨rfl, .refl _⟩

theorem Ordinary.trans {s t u : State} (h : Ordinary s t) (k : Ordinary t u) : Ordinary s u :=
  ⟨k.1.trans h.1, h.2.trans k.2⟩

/-- What differs in neither part is ordinary. -/
theorem Ordinary.of_eq {s t : State} (hc : t.control = s.control) (hb : t.busPart = s.busPart) : Ordinary s t :=
  ⟨hc, hb ▸ .refl _⟩

/-- Being ordinary goes by the two parts alone. -/
theorem Ordinary.congr {s t u : State} (h : Ordinary s t) (hc : u.control = t.control) (hb : u.busPart = t.busPart) :
    Ordinary s u := h.trans (.of_eq hc hb)

/-! ## The bus -/

theorem State.prefetchMany_queue (n : Nat) (s : State) : s.queue <+: (State.prefetchMany n s).queue := by
  induction n generalizing s with
  | zero => exact List.prefix_rfl
  | succ n ih => exact (List.prefix_append s.queue _).trans (ih s.prefetchOne)

/-- A prefetch puts bytes behind those the queue holds (R85). -/
theorem State.prefetchIf_queue (s : State) (c : Bool) : s.queue <+: (s.prefetchIf c).queue := by
  show _ <+: State.queue (if _ then _ else _)
  split
  · exact State.prefetchMany_queue _ { s with draws := s.draws + 1 }
  · exact List.prefix_rfl

theorem State.honour_queue (c : Bool) (ws : List (PAddr × Byte)) (s : State) :
    s.queue <+: (State.honour c ws s).queue := by
  induction ws generalizing s with
  | nil => exact List.prefix_rfl
  | cons w ws ih => exact (State.prefetchIf_queue (s.storeByte w.1 w.2) c).trans (ih _)

theorem State.gap_queue (s : State) (g : Gap) : s.queue <+: (s.gap g).queue := by
  refine (s.prefetchIf_queue (g == .free)).trans ?_
  show _ <+: State.queue (if _ then _ else _)
  split
  · exact State.honour_queue _ _ _
  · exact List.prefix_rfl

/-- A bus cycle after a gap (R64): traffic that leaves the front of the queue and lengthens the trace. -/
theorem Ordinary.of_cycle {s t : State} {g : Gap} {c : BusCycle} (h : Traffic s t) (hq : t.queue = (s.gap g).queue)
    (hb : t.bus = c :: (s.gap g).bus) : Ordinary s t := by
  refine ⟨by rw [h.form]; rfl, h.wf, h.queue, ?_, .inr ?_⟩
  · show s.queue <+: t.queue
    rw [hq]
    exact s.gap_queue g
  · show s.bus.length < t.bus.length
    rw [hb]
    exact Nat.lt_succ_of_le (s.gap_fetches g).suffix.length_le

theorem State.readPhys_ordinary (s : State) (g : Gap) (sg : SegStatus) (pa : PAddr) :
    Ordinary s (s.readPhys g sg pa).2 := .of_cycle (s.readPhys_reading g sg pa).toTraffic rfl rfl

theorem State.writePhys_ordinary (s : State) (g : Gap) (sg : SegStatus) (pa : PAddr) (v : Byte) :
    Ordinary s (s.writePhys g sg pa v) := .of_cycle (s.writePhys_traffic g sg pa v) rfl rfl

/-! ## Operands, the stack and ports -/

theorem State.memRead_ordinary (s : State) (sr : SReg) (seg off : Word) (w : Width) :
    Ordinary s (s.memRead sr seg off w).2 := by
  cases w with
  | byte => exact s.readPhys_ordinary _ _ _
  | word => exact (s.readPhys_ordinary _ _ _).trans (State.readPhys_ordinary _ _ _ _)

theorem State.memWrite_ordinary (s : State) (sr : SReg) (seg off : Word) (w : Width) (v : BitVec w.bits) :
    Ordinary s (s.memWrite sr seg off w v) := by
  cases w with
  | byte => exact s.writePhys_ordinary _ _ _ _
  | word => exact (s.writePhys_ordinary _ _ _ _).trans (State.writePhys_ordinary _ _ _ _ _)

theorem State.setReg_ordinary (s : State) (w : Width) (n : RegNum) (v : BitVec w.bits) :
    Ordinary s (s.setReg w n v) := by
  obtain ⟨_, _, _, _, _, _, _, _, h⟩ := State.setReg_form s w n v
  rw [h]
  exact .of_eq rfl rfl

theorem State.setReg16_ordinary (s : State) (r : Reg16) (v : Word) : Ordinary s (s.setReg16 r v) := by
  obtain ⟨_, _, _, _, _, _, _, _, h⟩ := State.setReg16_form s r v
  rw [h]
  exact .of_eq rfl rfl

theorem State.setReg8_ordinary (s : State) (r : Reg8) (v : Byte) : Ordinary s (s.setReg8 r v) := by
  obtain ⟨_, _, _, _, _, _, _, _, h⟩ := State.setReg8_form s r v
  rw [h]
  exact .of_eq rfl rfl

theorem State.readLoc_ordinary (s : State) (w : Width) (l : Loc) : Ordinary s (s.readLoc w l).2 := by
  cases l with
  | reg n => exact .refl s
  | mem sr seg off => exact s.memRead_ordinary sr seg off w

theorem State.writeLoc_ordinary (s : State) (w : Width) (l : Loc) (v : BitVec w.bits) :
    Ordinary s (s.writeLoc w l v) := by
  cases l with
  | reg n => exact s.setReg_ordinary w n v
  | mem sr seg off => exact s.memWrite_ordinary sr seg off w v

theorem State.readPointer_ordinary (s : State) (m : MemOp) : Ordinary s (s.readPointer m).2.2 :=
  (s.memRead_ordinary _ _ _ .word).trans (State.memRead_ordinary _ _ _ _ .word)

theorem State.pushOf_ordinary (s : State) (f : State → Word) : Ordinary s (s.pushOf f) :=
  State.memWrite_ordinary { s with SP := s.SP - 2#16 } .ss _ _ .word _

theorem State.push16_ordinary (s : State) (v : Word) : Ordinary s (s.push16 v) := s.pushOf_ordinary _

theorem State.pop16_ordinary (s : State) : Ordinary s s.pop16.2 := s.memRead_ordinary .ss s.SS s.SP .word

theorem State.ioReadByte_ordinary (s : State) (g : Gap) (port : Word) : Ordinary s (s.ioReadByte g port).2 :=
  have h : Ordinary s ((s.gap g).logCycle (State.cycle (s.gap g) .ioRead .codeOrNone (some (port.setWidth 20))
      (some (s.gap g).portByte))) :=
    .of_cycle ((s.gap_reading g).trans (State.logCycle_reading _ _)).toTraffic rfl rfl
  h

theorem State.ioRead_ordinary (s : State) (port : Word) (w : Width) : Ordinary s (s.ioRead port w).2 := by
  cases w with
  | byte => exact s.ioReadByte_ordinary _ port
  | word => exact (s.ioReadByte_ordinary _ port).trans (State.ioReadByte_ordinary _ _ _)

theorem State.ioWriteByte_ordinary (s : State) (g : Gap) (port : Word) (v : Byte) :
    Ordinary s (s.ioWriteByte g port v) :=
  .of_cycle ((s.gap_reading g).trans (State.logCycle_reading _ _)).toTraffic rfl rfl

theorem State.ioWrite_ordinary (s : State) (port : Word) (w : Width) (v : BitVec w.bits) :
    Ordinary s (s.ioWrite port w v) := by
  cases w with
  | byte => exact s.ioWriteByte_ordinary _ port v
  | word => exact (s.ioWriteByte_ordinary _ port _).trans (State.ioWriteByte_ordinary _ _ _ _)

/-! ## The shared forms of the instructions -/

/-- New status flags are ordinary: TF, IF and DF are those there were (R42). -/
theorem Ordinary.withFlags {s t : State} (h : Ordinary s t) {f : Flags} (hf : SameControlFlags s.flags f) (d : Nat) :
    Ordinary s { t with flags := f, draws := d } := by
  refine ⟨?_, h.2⟩
  obtain ⟨htf, hif, hdf⟩ := hf
  have hc := h.1
  simp only [State.control, ControlPart.mk.injEq] at hc ⊢
  simp only [hc, htf, hif, hdf, and_self]

theorem State.aluLoc_ordinary (s : State) (op : AluOp) (w : Width) (l : Loc) (b : BitVec w.bits) :
    Ordinary s (s.aluLoc op w l b) := by
  have hread := s.readLoc_ordinary w l
  have hflags : Ordinary (s.readLoc w l).2 ((s.readLoc w l).2.aluFlags op (s.readLoc w l).1 b) := by
    obtain ⟨f, d, h, hf⟩ := (s.readLoc w l).2.aluFlags_form op (s.readLoc w l).1 b
    rw [h]
    exact (Ordinary.refl _).withFlags hf d
  unfold State.aluLoc
  simp only []
  split
  · exact (hread.trans hflags).trans (State.writeLoc_ordinary _ w l _)
  · exact hread.trans hflags

theorem State.aluRmReg_ordinary (s : State) (op : AluOp) (d : Dir) (w : Width) (rm : RM) (reg : RegNum) :
    Ordinary s (s.aluRmReg op d w rm reg) := by
  cases d with
  | fromReg => exact s.aluLoc_ordinary op w _ _
  | toReg => exact (s.readLoc_ordinary w _).trans (State.aluLoc_ordinary _ op w _ _)

/-- An operand read, changed and written back under new status flags (R207, R217, R219). -/
theorem State.rewritten_ordinary (s : State) (w : Width) (l : Loc) {f : Flags} (hf : SameControlFlags s.flags f)
    (v : BitVec w.bits) : Ordinary s ({ (s.readLoc w l).2 with flags := f }.writeLoc w l v) :=
  ((s.readLoc_ordinary w l).withFlags hf (s.readLoc w l).2.draws).trans
    (State.writeLoc_ordinary { (s.readLoc w l).2 with flags := f } w l v)

theorem State.rewriteLoc_ordinary (s : State) (w : Width) (l : Loc) (v : BitVec w.bits) :
    Ordinary s (s.rewriteLoc w l v) := by
  cases l with
  | reg n => exact .refl s
  | mem sr seg off =>
    unfold State.rewriteLoc
    simp only []
    split
    · exact ⟨rfl, (State.memWrite_ordinary { s with draws := s.draws + 1 } sr seg off w v).2⟩
    · exact .of_eq rfl rfl

theorem ShiftOp.flags_control {n : Nat} (op : ShiftOp) (f : Flags) (count : Nat) (x r : BitVec n) (cf o af : Bool) :
    SameControlFlags f (op.flags f count x r cf o af) := by
  unfold ShiftOp.flags
  cases op.isShift <;> exact ⟨rfl, rfl, rfl⟩

theorem State.shiftRm_ordinary (s : State) (op : ShiftOp) (v : Count) (w : Width) (rm : RM) :
    Ordinary s (s.shiftRm op v w rm) := by
  have hread := s.readLoc_ordinary w (s.loc rm)
  unfold State.shiftRm
  simp only []
  split
  · exact hread.trans (State.rewriteLoc_ordinary _ w _ _)
  · exact (hread.withFlags (op.flags_control _ _ _ _ _ _ _) _).trans (State.writeLoc_ordinary _ w _ _)

/-- A product in AX, or in DX:AX, and its flags (R241, R242). -/
theorem State.product_ordinary (s : State) (ax dx : Word) (upper : Bool) :
    Ordinary s (State.productFlags { s with AX := ax, DX := dx } upper) := by
  obtain ⟨f, d, h, hf, -⟩ := State.productFlags_form { s with AX := ax, DX := dx } upper
  rw [h]
  exact ((Ordinary.refl s).withFlags hf d).congr rfl rfl

/-- Quotient and remainder of a byte division (R244, R245). -/
theorem State.setQuotient8_ordinary (s : State) (q r : Byte) : Ordinary s (s.setQuotient8 q r) := by
  obtain ⟨f, d, h, hf⟩ := s.setQuotient8_form q r
  rw [h]
  exact ((Ordinary.refl s).withFlags hf d).congr rfl rfl

/-- Quotient and remainder of a word division (R244, R245). -/
theorem State.setQuotient16_ordinary (s : State) (q r : Word) : Ordinary s (s.setQuotient16 q r) := by
  obtain ⟨f, d, h, hf⟩ := s.setQuotient16_form q r
  rw [h]
  exact ((Ordinary.refl s).withFlags hf d).congr rfl rfl

theorem State.movsOnce_ordinary (s : State) (w : Width) : Ordinary s (s.movsOnce w) :=
  (s.memRead_ordinary _ _ _ w).trans (State.memWrite_ordinary (s.readSource w).2 .es _ _ w _)

theorem State.cmpsOnce_ordinary (s : State) (w : Width) : Ordinary s (s.cmpsOnce w) :=
  (s.memRead_ordinary _ _ _ w).trans (State.memRead_ordinary (s.readSource w).2 .es _ _ w)

theorem State.scasOnce_ordinary (s : State) (w : Width) : Ordinary s (s.scasOnce w) :=
  s.memRead_ordinary .es s.ES s.DI w

theorem State.lodsOnce_ordinary (s : State) (w : Width) : Ordinary s (s.lodsOnce w) :=
  (s.memRead_ordinary _ _ _ w).trans (State.setReg_ordinary (s.readSource w).2 w _ _)

theorem State.stosOnce_ordinary (s : State) (w : Width) : Ordinary s (s.stosOnce w) :=
  s.memWrite_ordinary .es s.ES s.DI w (s.acc w)

end Sys2Proof.Machine
end

section
/-! PROOFS. Every instruction is ordinary work and then at most one change of the chip's control. -/

namespace Sys2Proof.Machine

/-- How an instruction changes the control of the chip once its ordinary work is done, one constructor a way. -/
inductive ControlChange (i : Instr) (u : State) : State → Prop where
  /-- Not at all. -/
  | unchanged : ControlChange i u u
  /-- A transfer within the segment, which empties the queue (R330). -/
  | near (ip : Word) : ControlChange i u (u.jumpNear ip)
  /-- An intersegment transfer (R330). -/
  | far (h : isFarTransfer i) (cs ip : Word) : ControlChange i u (u.jumpFar cs ip)
  /-- A segment register loaded alone, under a full shadow (R156, R163). -/
  | segment (sr : DataSReg) (h : (∃ rm, i = .movSregRm sr rm) ∨ i = .popSreg sr) (v : Word) :
      ControlChange i u { u.setDataSReg sr v with fullShadow := true }
  /-- LDS (R176). -/
  | pointerDs (h : ∃ r m, i = .lds r m) (v : Word) : ControlChange i u { u with DS := v }
  /-- LES (R177). -/
  | pointerEs (h : ∃ r m, i = .les r m) (v : Word) : ControlChange i u { u with ES := v }
  /-- CLD and STD (R403, R404). -/
  | direction (h : i = .cld ∨ i = .std) (b : Bool) : ControlChange i u { u with flags.DF := b }
  /-- CLI and STI, which may set its own shadow (R405, R406). -/
  | enable (h : i = .cli ∨ i = .sti) (b shadow : Bool) :
      ControlChange i u { u with flags.IF := b, stiShadow := shadow }
  /-- POPF (R181). -/
  | flags (h : i = .popf) (f : Flags) : ControlChange i u { u with flags := f }
  /-- IRET (R393). -/
  | iret (h : i = .iret) (cs ip : Word) (f : Flags) : ControlChange i u { u.jumpFar cs ip with flags := f }
  /-- A string primitive, which may have iterations left (R302). -/
  | string (h : isStringInstr i = true) (r : Option Instr) : ControlChange i u { u with repeating := r }
  /-- HLT (R408). -/
  | halt (h : i = .hlt) : ControlChange i u { u with halted := true }
  /-- WAIT (R409). -/
  | wait (h : i = .wait) (b : Bool) : ControlChange i u { u with waiting := b }
  /-- A prefix (R101). -/
  | prefixed (h : isPrefixInstr i = true) (o : Option SReg) (r : Option Bool) (l : Bool) :
      ControlChange i u { u with ovr := o, rep := r, lock := l }
  /-- The interrupt sequence (R440). -/
  | interrupt (h : raisesInterrupt i) (cs ip : Word) :
      ControlChange i u
        { u.jumpFar cs ip with
          flags.IF := false, flags.TF := false, halted := false, waiting := false, ovr := none, rep := none
          lock := false, repeating := none }

/-- An instruction `i` may lead from `s` to `t`: ordinary work, and then its change of control. -/
def MayLead (i : Instr) (s t : State) : Prop := ∃ u, Ordinary s u ∧ ControlChange i u t

theorem Ordinary.mayLead {i : Instr} {s t : State} (h : Ordinary s t) : MayLead i s t := ⟨t, h, .unchanged⟩

theorem MayLead.of_eq {i : Instr} {s t : State} (hc : t.control = s.control) (hb : t.busPart = s.busPart) :
    MayLead i s t := (Ordinary.of_eq hc hb).mayLead

theorem Ordinary.near {i : Instr} {s u : State} (h : Ordinary s u) (ip : Word) : MayLead i s (u.jumpNear ip) :=
  ⟨u, h, .near ip⟩

/-- Ordinary work before an instruction's own. -/
theorem MayLead.before {i : Instr} {s t u : State} (h : Ordinary s t) (k : MayLead i t u) : MayLead i s u := by
  obtain ⟨v, hv, hc⟩ := k
  exact ⟨v, h.trans hv, hc⟩

theorem State.jumpIf_mayLead {i : Instr} (s : State) (c : Bool) (disp : Byte) : MayLead i s (s.jumpIf c disp) := by
  unfold State.jumpIf
  split
  · exact (Ordinary.refl s).near _
  · exact (Ordinary.refl s).mayLead

/-! ## Interrupts -/

/-- The pushes of the sequence and the reads of the pointer are bus cycles (R440). -/
theorem State.pushFrame_cycles (s : State) (ip : Word) : Cycles s.busPart (s.pushFrame ip).busPart := by
  rw [State.pushFrame_eq]
  have hflags : Cycles s.busPart (State.busPart { s.push16 (s.flags.image s.params.flagsX) with
      flags := { s.flags with IF := false, TF := false } }) := (s.push16_ordinary _).2
  exact hflags.trans ((State.push16_ordinary _ s.CS).2.trans (State.push16_ordinary _ ip).2)

theorem State.readVector_ordinary (s : State) (t : Byte) (k : Nat) : Ordinary s (s.readVector t k).2 :=
  (s.readPhys_ordinary _ _ _).trans (State.readPhys_ordinary _ _ _ _)

/-- Up to its change of control the interrupt sequence is ordinary (R440). -/
theorem State.interrupt_mayLead {i : Instr} (h : raisesInterrupt i) (s : State) (t : Byte) (ip : Word) :
    MayLead i s (s.interrupt t ip) := by
  have hcycles := (s.pushFrame_cycles ip).trans
    ((State.readVector_ordinary _ t 0).2.trans (State.readVector_ordinary _ t 2).2)
  have htraffic := (s.pushFrame_form ip).trans ((State.readVector_reading _ t 0).toTraffic.trans
    (State.readVector_reading _ t 2).toTraffic)
  unfold State.interrupt
  simp only []
  generalize ((s.pushFrame ip).readVector t 0).2.readVector t 2 = v at hcycles htraffic ⊢
  have hu : Ordinary s { v.2 with flags := s.flags } := ⟨by rw [htraffic.form]; rfl, hcycles⟩
  refine ⟨{ v.2 with flags := s.flags, draws := v.2.draws + if s.vectorOverlapped t then 2 else 0 },
    hu.congr rfl rfl, ?_⟩
  have hflags : v.2.flags = { s.flags with IF := false, TF := false } := htraffic.flags
  rw [hflags]
  exact .interrupt h _ _

theorem State.divideError_mayLead {i : Instr} (h : raisesInterrupt i) (s : State) (w : Width) :
    MayLead i s (s.divideError w) := by
  obtain ⟨ax, dx, f, d, e, hf, -⟩ := s.divideError_form w
  rw [e]
  have hu : Ordinary s { s with AX := ax, DX := dx, flags := f, draws := d } := (Ordinary.refl s).withFlags hf d
  exact (State.interrupt_mayLead h { s with AX := ax, DX := dx, flags := f, draws := d } 0x00#8 s.IP).before hu

/-! ## Strings -/

/-- One iteration of a primitive that is ordinary itself is ordinary work that leaves iterations only of this
instruction, under a repeat prefix and with CX not 0 (R301, R302). -/
theorem State.iterate_leaves {i : Instr} {s : State} (c : Bool) {once : State → State} (h : Ordinary s (once s)) :
    ∃ u r, Ordinary s u ∧ s.iterate i c once = { u with repeating := r }
      ∧ ∀ j, r = some j → j = i ∧ u.rep.isSome = true ∧ u.CX ≠ 0#16 := by
  have hrep : (once s).rep = s.rep := congrArg ControlPart.rep h.1
  unfold State.iterate
  simp only []
  generalize once s = u at h hrep ⊢
  split
  · exact ⟨u, none, h, rfl, fun _ hj => nomatch hj⟩
  · rename_i z hz
    split
    · exact ⟨s, none, .refl s, rfl, fun _ hj => nomatch hj⟩
    · refine ⟨{ u with CX := s.CX - 1#16 }, _, h.congr rfl rfl, rfl, fun j hj => ?_⟩
      obtain ⟨hmore, hj⟩ := Option.ite_none_right_eq_some.mp hj
      simp only [Bool.and_eq_true, bne_iff_ne] at hmore
      exact ⟨(Option.some.inj hj).symm, by simp [hrep, hz], hmore.1⟩

/-- What a string instruction leaves of its repetition (R302). -/
theorem exec_leaves {i : Instr} {s t : State} (hi : isStringInstr i = true) (h : exec i s = .next t) :
    ∃ u r, Ordinary s u ∧ t = { u with repeating := r }
      ∧ ∀ j, r = some j → j = i ∧ u.rep.isSome = true ∧ u.CX ≠ 0#16 := by
  cases i with
  | movs w => cases h; exact State.iterate_leaves _ (s.movsOnce_ordinary w)
  | cmps w => cases h; exact State.iterate_leaves _ (s.cmpsOnce_ordinary w)
  | scas w => cases h; exact State.iterate_leaves _ (s.scasOnce_ordinary w)
  | lods w => cases h; exact State.iterate_leaves _ (s.lodsOnce_ordinary w)
  | stos w => cases h; exact State.iterate_leaves _ (s.stosOnce_ordinary w)
  | _ => cases hi

/-! ## The instructions -/

/-- What an instruction can do: ordinary work, and then its change of control. -/
theorem exec_mayLead {i : Instr} {s t : State} (h : exec i s = .next t) : MayLead i s t := by
  cases i with
  | movRmReg d w rm reg =>
    cases h
    cases d with
    | fromReg => exact (s.writeLoc_ordinary w _ _).mayLead
    | toReg => exact ((s.readLoc_ordinary w _).trans (State.setReg_ordinary _ w reg _)).mayLead
  | movRmImm rm imm => cases h; exact (s.writeLoc_ordinary _ _ _).mayLead
  | movRmSreg rm sr => cases h; exact (s.writeLoc_ordinary _ _ _).mayLead
  | movRegImm reg imm => cases h; exact (s.setReg_ordinary _ reg _).mayLead
  | movAccMem w addr =>
    cases h; exact ((s.memRead_ordinary _ _ _ w).trans (State.setReg_ordinary _ w _ _)).mayLead
  | movMemAcc w addr => cases h; exact (s.memWrite_ordinary _ _ _ w _).mayLead
  | movSregRm sr rm => cases h; exact ⟨_, s.readLoc_ordinary .word _, .segment sr (.inl ⟨rm, rfl⟩) _⟩
  | popSreg sr => cases h; exact ⟨_, s.pop16_ordinary, .segment sr (.inr rfl) _⟩
  | pushRm rm =>
    cases h
    cases rm with
    | reg n => exact (s.pushOf_ordinary _).mayLead
    | mem m => exact ((s.readLoc_ordinary .word _).trans (State.push16_ordinary _ _)).mayLead
  | pushReg r => cases h; exact (s.pushOf_ordinary _).mayLead
  | pushSreg sr => cases h; exact (s.push16_ordinary _).mayLead
  | pushf => cases h; exact (s.push16_ordinary _).mayLead
  | popRm rm => cases h; exact (s.pop16_ordinary.trans (State.writeLoc_ordinary _ .word _ _)).mayLead
  | popReg r => cases h; exact (s.pop16_ordinary.trans (State.setReg16_ordinary _ r _)).mayLead
  | popf => cases h; exact ⟨_, s.pop16_ordinary, .flags rfl _⟩
  | xchgRmReg w rm reg =>
    cases h
    exact ((s.readLoc_ordinary w _).trans ((State.writeLoc_ordinary _ w _ _).trans
      (State.setReg_ordinary _ w reg _))).mayLead
  | xchgAccReg r => cases h; exact ((s.setReg16_ordinary .ax _).trans (State.setReg16_ordinary _ r _)).mayLead
  | inFixed w port => cases h; exact ((s.ioRead_ordinary _ w).trans (State.setReg_ordinary _ w _ _)).mayLead
  | inVar w => cases h; exact ((s.ioRead_ordinary _ w).trans (State.setReg_ordinary _ w _ _)).mayLead
  | outFixed w port => cases h; exact (s.ioWrite_ordinary _ w _).mayLead
  | outVar w => cases h; exact (s.ioWrite_ordinary _ w _).mayLead
  | xlat => cases h; exact ((s.memRead_ordinary _ _ _ .byte).trans (State.setReg8_ordinary _ .al _)).mayLead
  | lea r m => cases h; exact (s.setReg16_ordinary r _).mayLead
  | lds r m =>
    cases h
    exact ⟨_, (s.readPointer_ordinary m).trans (State.setReg16_ordinary _ r _), .pointerDs ⟨r, m, rfl⟩ _⟩
  | les r m =>
    cases h
    exact ⟨_, (s.readPointer_ordinary m).trans (State.setReg16_ordinary _ r _), .pointerEs ⟨r, m, rfl⟩ _⟩
  | addRmReg d w rm reg | adcRmReg d w rm reg | subRmReg d w rm reg | sbbRmReg d w rm reg | cmpRmReg d w rm reg
  | andRmReg d w rm reg | orRmReg d w rm reg | xorRmReg d w rm reg =>
    cases h; exact (s.aluRmReg_ordinary _ d w rm reg).mayLead
  | addRmImm rm imm | adcRmImm rm imm | subRmImm rm imm | sbbRmImm rm imm | cmpRmImm rm imm | andRmImm rm imm
  | orRmImm rm imm | xorRmImm rm imm | testRmImm rm imm => cases h; exact (s.aluLoc_ordinary _ _ _ _).mayLead
  | addAccImm imm | adcAccImm imm | subAccImm imm | sbbAccImm imm | cmpAccImm imm | andAccImm imm | orAccImm imm
  | xorAccImm imm | testAccImm imm => cases h; exact (s.aluLoc_ordinary _ _ _ _).mayLead
  | testRmReg w rm reg => cases h; exact (s.aluLoc_ordinary _ w _ _).mayLead
  | incRm w rm | decRm w rm | negRm w rm =>
    cases h
    refine (s.rewritten_ordinary w _ ?_ _).mayLead
    exact ⟨rfl, rfl, rfl⟩
  | notRm w rm => cases h; exact ((s.readLoc_ordinary w _).trans (State.writeLoc_ordinary _ w _ _)).mayLead
  | incReg r | decReg r =>
    cases h
    refine (((Ordinary.refl s).withFlags ?_ s.draws).trans (State.setReg16_ordinary _ r _)).mayLead
    exact ⟨rfl, rfl, rfl⟩
  | lahf => cases h; exact (s.setReg8_ordinary .ah _).mayLead
  | sahf | aaa | aas | daa | das | aam | aad | cbw | cwd | clc | cmc | stc =>
    cases h; exact .of_eq rfl rfl
  | mulRm w rm | imulRm w rm =>
    cases h
    cases w with
    | byte => exact .before (s.readLoc_ordinary .byte _) (State.product_ordinary _ _ _ _).mayLead
    | word => exact .before (s.readLoc_ordinary .word _) (State.product_ordinary _ _ _ _).mayLead
  | divRm w rm | idivRm w rm =>
    cases h
    cases w with
    | byte =>
      simp only []
      split
      · exact .before (s.readLoc_ordinary .byte _) (State.divideError_mayLead (by trivial) _ _)
      · exact .before (s.readLoc_ordinary .byte _) (State.setQuotient8_ordinary _ _ _).mayLead
    | word =>
      simp only []
      split
      · exact .before (s.readLoc_ordinary .word _) (State.divideError_mayLead (by trivial) _ _)
      · exact .before (s.readLoc_ordinary .word _) (State.setQuotient16_ordinary _ _ _).mayLead
  | shl v w rm | shr v w rm | sar v w rm | rol v w rm | ror v w rm | rcl v w rm | rcr v w rm =>
    cases h; exact (s.shiftRm_ordinary _ v w rm).mayLead
  | movs w | cmps w | scas w | lods w | stos w =>
    obtain ⟨u, r, hu, rfl, -⟩ := exec_leaves rfl h
    exact ⟨u, hu, .string rfl r⟩
  | callNear disp => cases h; exact (s.push16_ordinary _).near _
  | callRm rm => cases h; exact ((s.readLoc_ordinary .word _).trans (State.push16_ordinary _ _)).near _
  | callFar off seg =>
    cases h; exact ⟨_, (s.push16_ordinary _).trans (State.push16_ordinary _ _), .far (by trivial) _ _⟩
  | callMemFar m =>
    cases h
    exact ⟨_, (s.readPointer_ordinary m).trans ((State.push16_ordinary _ _).trans (State.push16_ordinary _ _)),
      .far (by trivial) _ _⟩
  | jmpNear disp | jmpShort disp => cases h; exact (Ordinary.refl s).near _
  | jmpRm rm => cases h; exact (s.readLoc_ordinary .word _).near _
  | jmpFar off seg => cases h; exact ⟨_, .refl s, .far (by trivial) _ _⟩
  | jmpMemFar m => cases h; exact ⟨_, s.readPointer_ordinary m, .far (by trivial) _ _⟩
  | ret => cases h; exact s.pop16_ordinary.near _
  | retImm n =>
    cases h
    have hpop := s.pop16_ordinary
    generalize s.pop16 = p at hpop ⊢
    exact ⟨{ p.2 with SP := p.2.SP + n }, hpop.congr rfl rfl, .near _⟩
  | retf => cases h; exact ⟨_, s.pop16_ordinary.trans (State.pop16_ordinary _), .far (by trivial) _ _⟩
  | retfImm n =>
    cases h
    have hpop := s.pop16_ordinary.trans (State.pop16_ordinary _)
    simp only [State.popFar]
    generalize s.pop16.2.pop16 = p at hpop ⊢
    exact ⟨{ p.2 with SP := p.2.SP + n }, hpop.congr rfl rfl, .far (by trivial) p.1 s.pop16.1⟩
  | jo disp | jno disp | jb disp | jnb disp | je disp | jne disp | jbe disp | jnbe disp | js disp | jns disp | jp disp
  | jnp disp | jl disp | jnl disp | jle disp | jnle disp | jcxz disp =>
    cases h; exact s.jumpIf_mayLead _ disp
  | loop disp | loopz disp | loopnz disp => cases h; exact (s.countDown.jumpIf_mayLead _ disp).before (.of_eq rfl rfl)
  | intN t | int3 => cases h; exact s.interrupt_mayLead (by trivial) _ _
  | into =>
    cases h
    split
    · exact s.interrupt_mayLead (by trivial) _ _
    · exact (Ordinary.refl s).mayLead
  | iret =>
    cases h
    exact ⟨_, s.pop16_ordinary.trans ((State.pop16_ordinary _).trans (State.pop16_ordinary _)), .iret rfl _ _ _⟩
  | cld => cases h; exact ⟨_, .refl s, .direction (.inl rfl) _⟩
  | std => cases h; exact ⟨_, .refl s, .direction (.inr rfl) _⟩
  | cli => cases h; exact ⟨_, .refl s, .enable (.inl rfl) _ s.stiShadow⟩
  | sti => cases h; exact ⟨_, .refl s, .enable (.inr rfl) _ _⟩
  | hlt =>
    cases h
    exact ⟨s.emitHalt, ⟨rfl, id, id, List.prefix_rfl, .inr (Nat.lt_succ_self _)⟩, .halt rfl⟩
  | wait =>
    cases h
    exact ⟨{ s with
        IP := if s.testLow then s.IP else s.IP - 1#16
        draws := s.draws + if s.pins = none then 1 else 0 }, .of_eq rfl rfl, .wait rfl (!s.testLow)⟩
  | esc x1 x2 rm =>
    cases h
    cases rm with
    | reg n => exact (Ordinary.refl s).mayLead
    | mem m => exact (s.memRead_ordinary _ _ _ .word).mayLead
  | rep z => cases h; exact ⟨s, .refl s, .prefixed rfl s.ovr (some z) s.lock⟩
  | lock => cases h; exact ⟨s, .refl s, .prefixed rfl s.ovr s.rep true⟩
  | segment sr => cases h; exact ⟨s, .refl s, .prefixed rfl (some sr) s.rep s.lock⟩

end Sys2Proof.Machine
end

section
/-! PROOFS. Which instructions change the control flags, the segment registers and the halt state (O13), read off the
ways an instruction can change the control of the chip. -/

namespace Sys2Proof.Machine

section
variable {i : Instr} {u t : State} (h : ControlChange i u t)
include h

theorem ControlChange.changes_DF (hne : t.flags.DF ≠ u.flags.DF) : i = .cld ∨ i = .std ∨ i = .popf ∨ i = .iret := by
  cases h with
  | direction h => exact h.imp_right .inl
  | flags h => exact .inr (.inr (.inl h))
  | iret h => exact .inr (.inr (.inr h))
  | segment sr => cases sr <;> exact absurd rfl hne
  | _ => exact absurd rfl hne

theorem ControlChange.changes_TF (hne : t.flags.TF ≠ u.flags.TF) : i = .popf ∨ i = .iret ∨ raisesInterrupt i := by
  cases h with
  | flags h => exact .inl h
  | iret h => exact .inr (.inl h)
  | interrupt h => exact .inr (.inr h)
  | segment sr => cases sr <;> exact absurd rfl hne
  | _ => exact absurd rfl hne

theorem ControlChange.changes_IF (hne : t.flags.IF ≠ u.flags.IF) :
    i = .cli ∨ i = .sti ∨ i = .popf ∨ i = .iret ∨ raisesInterrupt i := by
  cases h with
  | enable h => exact h.imp_right .inl
  | flags h => exact .inr (.inr (.inl h))
  | iret h => exact .inr (.inr (.inr (.inl h)))
  | interrupt h => exact .inr (.inr (.inr (.inr h)))
  | segment sr => cases sr <;> exact absurd rfl hne
  | _ => exact absurd rfl hne

theorem ControlChange.changes_CS (hne : t.CS ≠ u.CS) : isFarTransfer i ∨ raisesInterrupt i := by
  cases h with
  | far h => exact .inl h
  | iret h => exact .inl (h ▸ trivial)
  | interrupt h => exact .inr h
  | segment sr => cases sr <;> exact absurd rfl hne
  | _ => exact absurd rfl hne

theorem ControlChange.changes_SS (hne : t.SS ≠ u.SS) : (∃ rm, i = .movSregRm .ss rm) ∨ i = .popSreg .ss := by
  cases h with
  | segment sr h =>
    cases sr with
    | ss => exact h
    | _ => exact absurd rfl hne
  | _ => exact absurd rfl hne

theorem ControlChange.changes_DS (hne : t.DS ≠ u.DS) :
    (∃ rm, i = .movSregRm .ds rm) ∨ i = .popSreg .ds ∨ ∃ r m, i = .lds r m := by
  cases h with
  | segment sr h =>
    cases sr with
    | ds => exact h.imp_right .inl
    | _ => exact absurd rfl hne
  | pointerDs h => exact .inr (.inr h)
  | _ => exact absurd rfl hne

theorem ControlChange.changes_ES (hne : t.ES ≠ u.ES) :
    (∃ rm, i = .movSregRm .es rm) ∨ i = .popSreg .es ∨ ∃ r m, i = .les r m := by
  cases h with
  | segment sr h =>
    cases sr with
    | es => exact h.imp_right .inl
    | _ => exact absurd rfl hne
  | pointerEs h => exact .inr (.inr h)
  | _ => exact absurd rfl hne

theorem ControlChange.changes_halted (hne : t.halted ≠ u.halted) : i = .hlt ∨ raisesInterrupt i := by
  cases h with
  | halt h => exact .inl h
  | interrupt h => exact .inr h
  | segment sr => cases sr <;> exact absurd rfl hne
  | _ => exact absurd rfl hne

end

/-- Settles O13: ordinary work changes none of these, and each change of control names its instructions. -/
theorem onlyTheseChangeControl : Obligations.OnlyTheseChangeControl := by
  intro i s t h
  obtain ⟨u, ⟨hsame, -⟩, hchange⟩ := exec_mayLead h
  have hDF : u.flags.DF = s.flags.DF := congrArg ControlPart.DF hsame
  have hTF : u.flags.TF = s.flags.TF := congrArg ControlPart.TF hsame
  have hIF : u.flags.IF = s.flags.IF := congrArg ControlPart.IF hsame
  have hCS : u.CS = s.CS := congrArg ControlPart.CS hsame
  have hSS : u.SS = s.SS := congrArg ControlPart.SS hsame
  have hDS : u.DS = s.DS := congrArg ControlPart.DS hsame
  have hES : u.ES = s.ES := congrArg ControlPart.ES hsame
  have hhalted : u.halted = s.halted := congrArg ControlPart.halted hsame
  rw [← hDF, ← hTF, ← hIF, ← hCS, ← hSS, ← hDS, ← hES, ← hhalted]
  exact ⟨hchange.changes_DF, hchange.changes_TF, hchange.changes_IF, hchange.changes_CS, hchange.changes_SS,
    hchange.changes_DS, hchange.changes_ES, hchange.changes_halted⟩

end Sys2Proof.Machine
end

section
/-! PROOFS. The invariant after reset and after every step (O9, O10): what holds while an instruction runs, what its end
leaves, what taking an interrupt leaves, and then the step from the outside in. -/

namespace Sys2Proof.Machine

/-- What a bit that is 0 would mean holds. -/
theorem vacuous_of_eq_false {b : Bool} {P : Prop} (h : b = false) (k : b = true) : P :=
  absurd (h.symm.trans k) Bool.false_ne_true

/-- A state just after RESET, where nothing is in progress and no instruction has begun (R50). -/
theorem State.inv_of_reset {s : State} (hm : Memory.wf s.mem) (hc : s.control = State.reset.control)
    (hq : s.queue = []) : s.Inv := by
  simp only [State.control, ControlPart.mk.injEq] at hc
  obtain ⟨-, -, -, -, -, -, -, -, hfull, -, hhalt, hwait, hovr, hrep, hlock, hrepeating, -, hstall, htrap, hseq, -⟩ := hc
  exact ⟨hm, fun i hi => (nomatch hrepeating.symm.trans hi), vacuous_of_eq_false hhalt, vacuous_of_eq_false hwait,
    vacuous_of_eq_false hseq, vacuous_of_eq_false hfull,
    fun _ => ⟨hfull, hhalt, hwait, hrepeating, ⟨hovr, hrep, hlock⟩, hseq, htrap⟩, by rw [hq]; exact Nat.zero_le 4,
    vacuous_of_eq_false hstall⟩

/-- Settles O9: after reset memory lists nothing and nothing is in progress. -/
theorem invAtReset : Obligations.InvAtReset := State.inv_of_reset Memory.reset_wf rfl rfl

/-- The invariant does not speak of the NMI latch, and of the bus grant and of READY only together (R477). -/
theorem State.Inv.change {s t : State} (h : s.Inv)
    (hc : t.control =
      { s.control with nmiLatch := t.nmiLatch, busGranted := t.busGranted, stalled := t.stalled })
    (hcx : t.CX = s.CX) (hm : Memory.wf s.mem → Memory.wf t.mem) (hq : s.queue.length ≤ 4 → t.queue.length ≤ 4)
    (hb : t.stalled = true → t.busGranted = false) : t.Inv := by
  simp only [State.control, ControlPart.mk.injEq] at hc
  obtain ⟨-, -, -, -, htf, hif, -, -, hfull, -, hhalt, hwait, hovr, hrep, hlock, hrepeating, -, -, htrap, hseq, hfresh⟩ :=
    hc
  have hp : t.noPrefix ↔ s.noPrefix := by unfold State.noPrefix; rw [hovr, hrep, hlock]
  refine ⟨hm h.mem, ?_, ?_, ?_, ?_, ?_, ?_, hq h.queue, hb⟩
  · rw [hrepeating, hrep, hcx]; exact h.repetition
  · rw [hhalt, hwait, hrepeating, hp]; exact h.halt
  · rw [hwait, hrepeating, hp]; exact h.wait
  · rw [hseq, hif, htf, hhalt, hwait, hrepeating, hp]; exact h.sequence
  · rw [hfull, hhalt, hwait, hrepeating, hseq]; exact h.shadow
  · rw [hfresh, hfull, hhalt, hwait, hrepeating, hp, hseq, htrap]; exact h.fresh

/-! ## While an instruction runs -/

/-- What holds while an instruction runs: the chip has the bus, is neither halted nor waiting, and the boundary it began
at is over. -/
structure State.Running (s : State) : Prop where
  mem : Memory.wf s.mem
  queue : s.queue.length ≤ 4
  halted : s.halted = false
  waiting : s.waiting = false
  afterSeq : s.afterSeq = false
  fresh : s.fresh = false
  busGranted : s.busGranted = false

theorem State.Running.keep {s t : State} (h : s.Running) (hc : t.control = s.control)
    (hm : Memory.wf s.mem → Memory.wf t.mem) (hq : s.queue.length ≤ 4 → t.queue.length ≤ 4) : t.Running :=
  ⟨hm h.mem, hq h.queue, (congrArg ControlPart.halted hc).trans h.halted,
    (congrArg ControlPart.waiting hc).trans h.waiting, (congrArg ControlPart.afterSeq hc).trans h.afterSeq,
    (congrArg ControlPart.fresh hc).trans h.fresh, (congrArg ControlPart.busGranted hc).trans h.busGranted⟩

theorem State.Running.ordinary {s t : State} (h : s.Running) (k : Ordinary s t) : t.Running :=
  h.keep k.1 k.2.wf k.2.length

/-- What a boundary leaves: the invariant, with the bus the chip's own. -/
def State.Sound (s : State) : Prop := s.Inv ∧ s.busGranted = false

/-- An instruction that goes on in the next step, with prefixes or a shadow in force, keeps the invariant. -/
theorem State.Running.sound {s : State} (h : s.Running)
    (hrep : ∀ j, s.repeating = some j → isStringInstr j = true ∧ s.rep.isSome = true ∧ s.CX ≠ 0#16)
    (hf : s.fullShadow = false ∨ s.repeating = none) : s.Sound := by
  have hshadow (hs : s.fullShadow = true) : s.repeating = none := hf.resolve_left (by simp [hs])
  exact ⟨⟨h.mem, hrep, vacuous_of_eq_false h.halted, vacuous_of_eq_false h.waiting, vacuous_of_eq_false h.afterSeq,
    fun hs => ⟨h.halted, h.waiting, hshadow hs, h.afterSeq⟩, vacuous_of_eq_false h.fresh, h.queue,
    fun _ => h.busGranted⟩, h.busGranted⟩

/-! ## The end of an instruction -/

/-- What an instruction without iterations left has done to the chip: it is at most one of halted, waiting and under a
full shadow (R408, R409, R437). -/
structure State.Done (s : State) : Prop where
  mem : Memory.wf s.mem
  queue : s.queue.length ≤ 4
  repeating : s.repeating = none
  afterSeq : s.afterSeq = false
  fresh : s.fresh = false
  busGranted : s.busGranted = false
  halt : s.halted = true → s.waiting = false ∧ s.fullShadow = false
  wait : s.waiting = true → s.fullShadow = false

/-- With its prefixes spent such an instruction keeps the invariant (R101). -/
theorem State.Done.sound {s : State} (h : s.Done) : s.withoutPrefixes.Sound := by
  have hp : s.withoutPrefixes.noPrefix := ⟨rfl, rfl, rfl⟩
  have hr : s.withoutPrefixes.repeating = none := h.repeating
  refine ⟨⟨h.mem, fun i hi => (nomatch hr.symm.trans hi), fun hh => ⟨(h.halt hh).1, hr, hp⟩, fun _ => ⟨hr, hp⟩,
    vacuous_of_eq_false h.afterSeq, fun hf => ⟨?_, ?_, hr, h.afterSeq⟩, vacuous_of_eq_false h.fresh, h.queue,
    fun _ => h.busGranted⟩, h.busGranted⟩
  · exact Bool.eq_false_iff.mpr fun hh => vacuous_of_eq_false (h.halt hh).2 hf
  · exact Bool.eq_false_iff.mpr fun hw => vacuous_of_eq_false (h.wait hw) hf

section
variable {u : State} (hu : u.Running) (hr : u.repeating = none) (hf : u.fullShadow = false)
include hu hr hf

/-- Each change of control leaves at most one of halt, wait and full shadow, and no iterations but a string
instruction's. -/
theorem ControlChange.done {i : Instr} {t : State} (h : ControlChange i u t) (hi : isStringInstr i = false) :
    t.Done := by
  cases h with
  | string h => exact vacuous_of_eq_false hi h
  | wait _ b =>
    exact ⟨hu.mem, hu.queue, hr, hu.afterSeq, hu.fresh, hu.busGranted, vacuous_of_eq_false hu.halted, fun _ => hf⟩
  | segment sr _ v =>
    obtain ⟨_, _, _, h⟩ := u.setDataSReg_form sr v
    rw [h]
    exact ⟨hu.mem, hu.queue, hr, hu.afterSeq, hu.fresh, hu.busGranted, vacuous_of_eq_false hu.halted,
      vacuous_of_eq_false hu.waiting⟩
  | near ip | far _ cs ip | iret _ cs ip f =>
    exact ⟨hu.mem, Nat.zero_le 4, hr, hu.afterSeq, hu.fresh, hu.busGranted, fun _ => ⟨hu.waiting, hf⟩, fun _ => hf⟩
  | interrupt _ cs ip =>
    exact ⟨hu.mem, Nat.zero_le 4, rfl, hu.afterSeq, hu.fresh, hu.busGranted, fun _ => ⟨rfl, hf⟩, fun _ => hf⟩
  | _ =>
    exact ⟨hu.mem, hu.queue, hr, hu.afterSeq, hu.fresh, hu.busGranted, fun _ => ⟨hu.waiting, hf⟩, fun _ => hf⟩

end

/-- An instruction, or an iteration of a repetition, that runs to its end keeps the invariant. -/
theorem State.complete_sound {s t : State} {i : Instr} (hs : s.Running)
    (hi : s.repeating = none ∨ isStringInstr i = true) (h : s.complete i = .next t) : t.Sound := by
  obtain ⟨w, hw⟩ := exec_completes i s.unshadowed
  rw [State.complete_eq hw] at h
  cases h
  have hrun : s.unshadowed.Running :=
    ⟨hs.mem, hs.queue, hs.halted, hs.waiting, hs.afterSeq, hs.fresh, hs.busGranted⟩
  cases hstr : isStringInstr i with
  | true =>
    obtain ⟨u, r, hu, rfl, hleft⟩ := exec_leaves hstr hw
    have hurun := hrun.ordinary hu
    have hfull : u.fullShadow = false := congrArg ControlPart.fullShadow hu.1
    cases r with
    | none =>
      have hdone : State.Done { u with repeating := none } :=
        ⟨hurun.mem, hurun.queue, rfl, hurun.afterSeq, hurun.fresh, hurun.busGranted, fun _ => ⟨hurun.waiting, hfull⟩,
          fun _ => hfull⟩
      exact hdone.sound
    | some j =>
      obtain ⟨rfl, hrep, hcx⟩ := hleft j rfl
      have hgoes : State.Running { u with repeating := some j } :=
        ⟨hurun.mem, hurun.queue, hurun.halted, hurun.waiting, hurun.afterSeq, hurun.fresh, hurun.busGranted⟩
      exact hgoes.sound (fun k hk => Option.some.inj hk ▸ ⟨hstr, hrep, hcx⟩) (.inl hfull)
  | false =>
    obtain ⟨u, hu, hchange⟩ := exec_mayLead hw
    have hrep : u.repeating = none :=
      (congrArg ControlPart.repeating hu.1).trans (hi.resolve_right (by simp [hstr]))
    have hdone := hchange.done (hrun.ordinary hu) hrep (congrArg ControlPart.fullShadow hu.1) hstr
    rw [if_pos hdone.repeating]
    exact hdone.sound

/-! ## Taking an interrupt -/

/-- After the interrupt sequence nothing is in progress and IF and TF are 0 (R440). -/
theorem State.takeInterrupt_sound {s : State} (hm : Memory.wf s.mem) (hf : s.fresh = false) (hb : s.busGranted = false)
    (ty : Byte) (trap : Bool) : State.Sound { s.takeInterrupt ty with trapDue := trap } := by
  obtain ⟨v, cs, ip, d, he, hv, -⟩ := State.interrupt_form { s with lock := false } ty s.savedIP
  have hbus : v.busGranted = false := hv.busGranted.trans hb
  have hIF : v.flags.IF = false := congrArg Flags.IF hv.flags
  have hTF : v.flags.TF = false := congrArg Flags.TF hv.flags
  rw [State.takeInterrupt, he]
  exact ⟨⟨hv.wf hm, fun _ hi => (nomatch hi), vacuous_of_eq_false rfl, vacuous_of_eq_false rfl,
    fun _ => ⟨hIF, hTF, rfl, rfl, rfl, rfl, rfl, rfl⟩, vacuous_of_eq_false rfl,
    vacuous_of_eq_false (hv.fresh.trans hf), Nat.zero_le 4, fun _ => hbus⟩, hbus⟩

/-- Taking up an external request clears LOCK and may clear the NMI latch, and is otherwise traffic (R438, R441). -/
theorem State.externalAt_traffic {s u : State} {l : Option InterruptPins} {ty : Byte}
    (h : s.externalAt l = some (ty, u)) : ∃ n, Traffic { s with nmiLatch := n, lock := false } u := by
  unfold State.externalAt at h
  split at h
  · cases h
    exact ⟨false, Traffic.refl _⟩
  · split at h
    · split at h
      · cases h
        exact ⟨s.nmiLatch, (State.acknowledge_reading { s with lock := false } _).toTraffic⟩
      · cases h
    · cases h

/-- Nothing is recognised before the first instruction after RESET; what recognition changes is the NMI latch, LOCK and
the trap due (R436, R438). -/
theorem State.recognised_traffic {s u : State} {ty : Byte} (h : s.recognised = some (ty, u)) :
    s.fresh = false ∧ ∃ n l d, Traffic { s with nmiLatch := n, lock := l, trapDue := d } u := by
  have hext : s.external = some (ty, u) → ∃ n l d, Traffic { s with nmiLatch := n, lock := l, trapDue := d } u :=
    fun h => by
      obtain ⟨n, hn⟩ := State.externalAt_traffic h
      exact ⟨n, false, s.trapDue, hn⟩
  have htrap : s.trap = some (ty, u) → ∃ n l d, Traffic { s with nmiLatch := n, lock := l, trapDue := d } u :=
    fun h => by
      unfold State.trap at h
      split at h
      · cases h
        exact ⟨s.nmiLatch, s.lock, false, Traffic.refl _⟩
      · cases h
  unfold State.recognised at h
  split at h
  · cases h
  · rename_i hfresh
    refine ⟨by simpa using hfresh, ?_⟩
    split at h
    · exact (Option.or_eq_some_iff.mp h).elim htrap fun h => hext h.2
    · exact (Option.or_eq_some_iff.mp h).elim hext fun h => htrap h.2

/-! ## One instruction with its prefixes -/

theorem State.start_sound {s t : State} {i : Instr} (hs : s.Running) (hr : s.repeating = none)
    (h : s.start i = .next t) : t.Sound := by
  unfold State.start at h
  split at h
  · exact State.complete_sound hs (.inl hr) h
  · split at h
    · split at h
      · exact State.complete_sound hs (.inl hr) h
      · split at h
        · rename_i ty u hp
          unfold State.firstPoint at hp
          split at hp
          · cases hp
          · obtain ⟨n, hu⟩ := State.externalAt_traffic hp
            cases h
            exact State.takeInterrupt_sound (hu.wf hs.mem) (hu.fresh.trans hs.fresh)
              (hu.busGranted.trans hs.busGranted) ty false
        · exact State.complete_sound hs (.inl hr) h
    · cases h

/-- Fetching instruction bytes changes no control. -/
theorem State.fetched_running {s : State} (h : s.Running) (n : Nat) :
    (s.fetched n).Running ∧ (s.fetched n).repeating = s.repeating := by
  have hf := (s.fetched_form n).toTraffic
  exact ⟨h.keep (by rw [hf.form]; rfl) hf.wf hf.queue, hf.repeating⟩

/-- A prefix changes what is in force alone (R101). -/
theorem exec_prefix_running {i : Instr} {s t : State} (hi : isPrefixInstr i = true) (h : exec i s = .next t)
    (hs : s.Running) : t.Running ∧ t.repeating = s.repeating := by
  cases i with
  | rep z | lock | segment sr =>
    cases h
    exact ⟨⟨hs.mem, hs.queue, hs.halted, hs.waiting, hs.afterSeq, hs.fresh, hs.busGranted⟩, rfl⟩
  | _ => cases hi

theorem State.runFrom_sound {n : Nat} {s t : State} (hs : s.Running) (hr : s.repeating = none)
    (h : State.runFrom n s = .next t) : t.Sound := by
  induction n generalizing s with
  | zero =>
    cases h
    exact hs.sound (by simp [hr]) (.inr hr)
  | succ n ih =>
    cases hd : decode s.codeBytes with
    | error e =>
      rw [State.runFrom_undecodable hd] at h
      cases h
    | ok p =>
      obtain ⟨i, rest⟩ := p
      obtain ⟨hf, hfr⟩ := State.fetched_running hs (6 - rest.length)
      cases hi : isPrefixInstr i with
      | true =>
        obtain ⟨u, hu⟩ := exec_completes i (s.fetched (6 - rest.length))
        rw [State.runFrom_prefix hd hi hu] at h
        obtain ⟨hurun, hur⟩ := exec_prefix_running hi hu hf
        exact ih hurun (hur.trans (hfr.trans hr)) h
      | false =>
        rw [State.runFrom_start hd hi] at h
        exact State.start_sound hf (hfr.trans hr) h

/-! ## The boundary -/

/-- An instruction that begins at a boundary runs (R101). -/
theorem State.beginInstr_running {s : State} (hi : s.Inv) (hb : s.busGranted = false) (hh : s.halted = false) :
    s.beginInstr.Running := ⟨hi.mem, hi.queue, hh, rfl, rfl, rfl, hb⟩

/-- Inside a prefixed instruction the chip runs (R437 b). -/
theorem State.midInstruction_running {s : State} (hi : s.Inv) (hb : s.busGranted = false)
    (hmid : s.midInstruction = true) : s.Running ∧ s.repeating = none := by
  simp only [State.midInstruction, Bool.and_eq_true, Option.isNone_iff_eq_none] at hmid
  have hp : ¬ s.noPrefix := fun hp => by simp [hp.1, hp.2.1, hp.2.2] at hmid
  refine ⟨⟨hi.mem, hi.queue, ?_, ?_, ?_, ?_, hb⟩, hmid.2⟩
  · exact Bool.eq_false_iff.mpr fun h => hp (hi.halt h).2.2
  · exact Bool.eq_false_iff.mpr fun h => hp (hi.wait h).2
  · refine Bool.eq_false_iff.mpr fun h => hp ?_
    obtain ⟨-, -, -, -, -, h⟩ := hi.sequence h
    exact h
  · refine Bool.eq_false_iff.mpr fun h => hp ?_
    obtain ⟨-, -, -, -, h, -⟩ := hi.fresh h
    exact h

/-- A repetition between two iterations runs (R302). -/
theorem State.repeating_running {s : State} {i : Instr} (hi : s.Inv) (hb : s.busGranted = false)
    (hr : s.repeating = some i) : s.Running := by
  have hne : s.repeating ≠ none := by simp [hr]
  refine ⟨hi.mem, hi.queue, ?_, ?_, ?_, ?_, hb⟩
  · exact Bool.eq_false_iff.mpr fun h => hne (hi.halt h).2.1
  · exact Bool.eq_false_iff.mpr fun h => hne (hi.wait h).1
  · refine Bool.eq_false_iff.mpr fun h => hne ?_
    obtain ⟨-, -, -, -, h, -⟩ := hi.sequence h
    exact h
  · refine Bool.eq_false_iff.mpr fun h => hne ?_
    obtain ⟨-, -, -, h, -⟩ := hi.fresh h
    exact h

theorem State.boundary_sound {s t : State} (hi : s.Inv) (hb : s.busGranted = false) (h : s.boundary = .next t) :
    t.Sound := by
  unfold State.boundary at h
  split at h
  · rename_i hmid
    obtain ⟨hrun, hr⟩ := State.midInstruction_running hi hb hmid
    exact State.runFrom_sound hrun hr h
  · split at h
    · rename_i hfull
      obtain ⟨hh, -, hr, -⟩ := hi.shadow hfull
      exact State.runFrom_sound (State.beginInstr_running hi hb hh) hr h
    · split at h
      · rename_i ty u hu
        obtain ⟨hfresh, n, l, d, htraffic⟩ := State.recognised_traffic hu
        cases h
        exact State.takeInterrupt_sound (htraffic.wf hi.mem) (htraffic.fresh.trans hfresh)
          (htraffic.busGranted.trans hb) ty (u.takeInterrupt ty).trapDue
      · split at h
        · cases h
          exact ⟨hi, hb⟩
        · rename_i hhalt
          have hh : s.halted = false := by simpa using hhalt
          split at h
          · rename_i hw
            have hrun : State.Running { s with IP := s.IP + 1#16 }.beginInstr :=
              ⟨hi.mem, hi.queue, hh, rfl, rfl, rfl, hb⟩
            exact State.complete_sound hrun (.inl (hi.wait hw).1) h
          · split at h
            · rename_i i hr
              exact State.complete_sound (State.repeating_running hi hb hr) (.inr (hi.repetition i hr).1) h
            · rename_i hr
              exact State.runFrom_sound (State.beginInstr_running hi hb hh) hr h

/-! ## The step -/

theorem State.samplePins_inv {s : State} (h : s.Inv) : s.samplePins.Inv := by
  unfold State.samplePins
  split <;> exact h.change rfl rfl id id h.stalled

theorem State.afterReset_inv {s : State} (h : s.Inv) : s.afterReset.Inv := State.inv_of_reset h.mem rfl rfl

theorem State.reclaimBus_queue {s : State} (h : s.queue.length ≤ 4) : s.reclaimBus.queue.length ≤ 4 := by
  unfold State.reclaimBus
  split
  · split
    · exact h
    · exact (State.prefetch_reading { s with busGranted := false }).queue h
  · exact h

/-- A bus taken back is the chip's own (R475). -/
theorem State.reclaimBus_sound {s : State} (h : s.Inv) : s.reclaimBus.Sound := by
  have hq := State.reclaimBus_queue h.queue
  obtain ⟨q, b, d, n, e⟩ := s.reclaimBus_form
  rw [e] at hq ⊢
  exact ⟨h.change rfl rfl id (fun _ => hq) (fun _ => rfl), rfl⟩

theorem State.masterWrites_traffic (s : State) (ws : List (PAddr × Byte)) : Traffic s (s.masterWrites ws) := by
  unfold State.masterWrites
  split
  · induction ws generalizing s with
    | nil => exact Traffic.refl s
    | cons w ws ih => exact (s.storeByte_traffic w.1 w.2).trans (ih _ ‹_›)
  · exact Traffic.refl s

theorem Traffic.inv {s t : State} (k : Traffic s t) (h : s.Inv) : t.Inv := by
  refine h.change ?_ k.CX k.wf k.queue ?_
  · rw [k.form]
    rfl
  · rw [k.stalled, k.busGranted]
    exact h.stalled

/-- A chip that gives the bus away has no bus cycle in progress (R477). -/
theorem State.grantBus_inv {s t : State} (hi : s.Inv) (hs : s.stalled = false) (h : s.grantBus = some t) : t.Inv := by
  unfold State.grantBus at h
  split at h
  · cases h
  · split at h
    · cases h
    · cases h
      have hreclaim : State.Inv (if s.params.mode = .max then s.reclaimBus else s)
          ∧ (if s.params.mode = .max then s.reclaimBus else s).stalled = false := by
        split
        · obtain ⟨q, b, d, n, e⟩ := s.reclaimBus_form
          exact ⟨(State.reclaimBus_sound hi).1, by rw [e]; exact hs⟩
        · exact ⟨hi, hs⟩
      generalize (if s.params.mode = .max then s.reclaimBus else s) = u at hreclaim ⊢
      obtain ⟨hu, hus⟩ := hreclaim
      have hw := u.masterWrites_traffic
      refine (Traffic.inv (hw _) hu).change rfl rfl id id ?_
      exact vacuous_of_eq_false ((hw _).stalled.trans hus)

theorem State.finish_inv {s t : State} (h : t.Sound) : (s.finish t).Inv := by
  obtain ⟨hi, hb⟩ := h
  have hq := t.prefetch_reading.queue
  unfold State.finish
  simp only []
  split
  · exact hi.change rfl rfl id hq fun _ => hb
  · exact hi.change rfl rfl id hq fun _ => hb

/-- Settles O10: each way a step can go keeps the invariant. -/
theorem stepKeepsInv : Obligations.StepKeepsInv := by
  intro s t hi h
  have hpins := State.samplePins_inv hi
  unfold step State.advance at h
  simp only [] at h
  split at h
  · cases h
    exact State.afterReset_inv hpins
  · split at h
    · cases h
      exact hpins
    · have hv : State.Inv { s.samplePins with stalled := false } := hpins.change rfl rfl id id (vacuous_of_eq_false rfl)
      split at h
      · rename_i u hu
        cases h
        exact State.grantBus_inv hv rfl hu
      · split at h
        · rename_i u hu
          cases h
          obtain ⟨hr, hb⟩ := State.reclaimBus_sound hv
          exact State.finish_inv (State.boundary_sound hr hb hu)
        · cases h
        · cases h

end Sys2Proof.Machine
end

section
/-! PROOFS. The sample words (O4): each is the encoding of its instruction, so it decodes to it. -/

namespace Sys2Proof.Machine

/-- A list of words, each the encoding of the well-formed instruction beside it (R120, R121). -/
abbrev Encodes (l : List (List Byte × Instr)) : Prop := ∀ p ∈ l, encode p.2 = p.1 ∧ p.2.wf = true

theorem Encodes.append {l m : List (List Byte × Instr)} (h : Encodes l) (k : Encodes m) : Encodes (l ++ m) :=
  fun p hp => (List.mem_append.mp hp).elim (h p) (k p)

theorem encodes_wordsTransfer : Encodes wordsTransfer := by decide

theorem encodes_wordsAdd : Encodes wordsAdd := by decide

theorem encodes_wordsSubtract : Encodes wordsSubtract := by decide

theorem encodes_wordsMultiply : Encodes wordsMultiply := by decide

theorem encodes_wordsLogic : Encodes wordsLogic := by decide

theorem encodes_wordsString : Encodes wordsString := by decide

theorem encodes_wordsTransferOfControl : Encodes wordsTransferOfControl := by decide

theorem encodes_wordsConditionalJump : Encodes wordsConditionalJump := by decide

theorem encodes_wordsInterrupt : Encodes wordsInterrupt := by decide

theorem encodes_wordsProcessor : Encodes wordsProcessor := by decide

theorem encodes_wordsReg16 : Encodes wordsReg16 := by decide

theorem encodes_wordsRegNum : Encodes wordsRegNum := by decide

theorem encodes_wordsRM : Encodes wordsRM := by decide

theorem encodes_wordsSReg : Encodes wordsSReg := by decide

theorem encodes_wordsMore : Encodes wordsMore := by decide

theorem encodes_sampleWords : Encodes sampleWords :=
  encodes_wordsTransfer.append encodes_wordsAdd |>.append encodes_wordsSubtract |>.append encodes_wordsMultiply
    |>.append encodes_wordsLogic |>.append encodes_wordsString |>.append encodes_wordsTransferOfControl
    |>.append encodes_wordsConditionalJump |>.append encodes_wordsInterrupt |>.append encodes_wordsProcessor
    |>.append encodes_wordsReg16 |>.append encodes_wordsRegNum |>.append encodes_wordsRM |>.append encodes_wordsSReg
    |>.append encodes_wordsMore

/-- Settles O4: a word that encodes a well-formed instruction decodes to it. -/
theorem sampleWordsDecode : Obligations.SampleWordsDecode := fun p hp => by
  obtain ⟨hword, hwf⟩ := encodes_sampleWords p hp
  rw [← hword, ← List.append_nil (encode p.2)]
  exact decode_encode hwf []

end Sys2Proof.Machine
end

section
/-! PROOFS. The state after reset and RESET high (O8, O12), the registers and addresses an encoding names (O16), and
FLAGS as a word (O25). -/

namespace Sys2Proof.Machine

/-! ## Reset -/

/-- FLAGS with no flag set read as FLAGS_X in the X positions and 0 elsewhere (R30, R41). -/
theorem Flags.image_clear (x : Word) : Flags.clear.image x = x &&& flagsXMask := by
  simp [Flags.image, Flags.clear, flagAt]

/-- Settles O8: the fields of R50, and FLAGS as the default FLAGS_X. -/
theorem resetState : Obligations.ResetState := by
  have himage : State.reset.flags.image State.reset.params.flagsX = State.reset.params.flagsX :=
    (Flags.image_clear _).trans (by decide)
  have hcode : State.reset.codeAddr 0 = 0xFFFF0#20 := by decide
  exact ⟨rfl, rfl, hcode, rfl, rfl, rfl, rfl, himage, rfl, rfl, rfl, rfl, rfl, rfl, rfl, rfl, rfl, rfl, rfl, rfl⟩

/-- A step that samples RESET high answers the state after it, before anything else (R500). -/
theorem step_resetHigh {s : State} (h : s.samplePins.resetHigh = true) : step s = .next s.samplePins.afterReset := by
  simp only [step, State.advance, h, if_true]

/-- Settles O12: the pins sampled say RESET, and RESET leaves memory, the parameters and the environment. -/
theorem resetPinRestarts : Obligations.ResetPinRestarts := by
  intro s p ps henv hreset
  have hpins : s.samplePins =
      { s with
        pins := some p, env := ps, nmiLatch := s.nmiLatch || s.edgeSeen p
        draws := s.draws + if s.fresh then 1 else 0
        gaps := p.gaps.map s.heard, requests := s.recorded ++ s.heard p.requests } := by
    simp only [State.samplePins, henv]
  have hhigh : s.samplePins.resetHigh = true := by rw [hpins]; exact hreset
  refine ⟨_, step_resetHigh hhigh, ?_⟩
  rw [hpins]
  exact ⟨rfl, rfl, rfl, rfl, rfl, rfl, rfl, rfl, rfl, rfl, ⟨rfl, rfl, rfl⟩, rfl, rfl, rfl, rfl, rfl, rfl, rfl, rfl, rfl,
    rfl, rfl, rfl, rfl, rfl⟩

/-! ## Registers and addresses -/

/-- DISP is the sign-extended byte or the word (R113). -/
theorem dispValue_eq {d : Disp} {D : Word} (h0 : d = .none → D = 0x0000#16) (h8 : ∀ b, d = .d8 b → D = b.signExtend 16)
    (h16 : ∀ w, d = .d16 w → D = w) : dispValue d = D := by
  cases d with
  | none => exact (h0 rfl).symm
  | d8 b => exact (h8 b rfl).symm
  | d16 w => exact (h16 w rfl).symm

/-- Settles O16: registers by number, effective addresses, and segments with and without an override. -/
theorem addressForms : Obligations.AddressForms := by
  intro s
  refine ⟨⟨rfl, rfl, rfl, rfl, rfl, rfl, rfl, rfl⟩, ⟨rfl, rfl, rfl, rfl, rfl, rfl, rfl, rfl⟩,
    fun v => ⟨rfl, rfl, rfl, rfl, rfl, rfl, rfl, rfl⟩, fun v => ⟨rfl, rfl, rfl, rfl, rfl, rfl, rfl, rfl⟩,
    ?words, ?bytes, fun w => ⟨rfl, fun _ => rfl⟩, ?offset, fun _ => rfl, ?default, ?override, fun _ => rfl,
    fun _ => rfl, rfl, rfl, rfl, rfl⟩
  case words =>
    simp only [List.forall_mem_cons, List.not_mem_nil, false_implies, implies_true, and_true]
    exact ⟨⟨rfl, fun _ => rfl⟩, ⟨rfl, fun _ => rfl⟩, ⟨rfl, fun _ => rfl⟩, ⟨rfl, fun _ => rfl⟩, ⟨rfl, fun _ => rfl⟩,
      ⟨rfl, fun _ => rfl⟩, ⟨rfl, fun _ => rfl⟩, rfl, fun _ => rfl⟩
  case bytes =>
    simp only [List.forall_mem_cons, List.not_mem_nil, false_implies, implies_true, and_true]
    exact ⟨⟨rfl, fun _ => rfl⟩, ⟨rfl, fun _ => rfl⟩, ⟨rfl, fun _ => rfl⟩, ⟨rfl, fun _ => rfl⟩, ⟨rfl, fun _ => rfl⟩,
      ⟨rfl, fun _ => rfl⟩, ⟨rfl, fun _ => rfl⟩, rfl, fun _ => rfl⟩
  case offset =>
    intro d D h0 h8 h16
    obtain rfl := dispValue_eq h0 h8 h16
    exact ⟨rfl, rfl, rfl, rfl, rfl, rfl, rfl, rfl⟩
  case default =>
    intro ho
    simp only [State.segOf, State.dataSeg, ho, Option.getD_none]
    refine ⟨fun base d => ?_, fun _ => rfl, trivial⟩
    cases base <;> rfl
  case override =>
    intro sr ho
    simp only [State.segOf, State.dataSeg, ho, Option.getD_some]
    exact ⟨fun _ => trivial, trivial⟩

/-! ## FLAGS as a word -/

/-- A flag is at its place and nowhere else in the word. -/
theorem getLsbD_flagAt (b : Bool) {n k : Nat} (hk : k < 16) : (flagAt b n).getLsbD k = (b && decide (k = n)) := by
  by_cases hkn : k < n
  · simp [flagAt, hk, hkn, Nat.ne_of_lt hkn]
  · by_cases he : k = n
    · subst he
      simp [flagAt, hk]
    · have h1 : k - n ≠ 0 := by omega
      simp [flagAt, hk, hkn, he, h1, BitVec.getLsbD_ofBool]

/-- A bit of FLAGS as a word: FLAGS_X in the X positions, and each flag at its place (R30, R41). -/
theorem Flags.getLsbD_image (f : Flags) (x : Word) {k : Nat} (hk : k < 16) :
    (f.image x).getLsbD k =
      (x.getLsbD k && flagsXMask.getLsbD k || f.CF && decide (k = 0) || f.PF && decide (k = 2)
        || f.AF && decide (k = 4) || f.ZF && decide (k = 6) || f.SF && decide (k = 7) || f.TF && decide (k = 8)
        || f.IF && decide (k = 9) || f.DF && decide (k = 10) || f.OF && decide (k = 11)) := by
  simp only [Flags.image, BitVec.getLsbD_or, BitVec.getLsbD_and, getLsbD_flagAt _ hk]

/-- The bits of FLAGS as a word that are flags (R30). -/
theorem Flags.image_flags (f : Flags) (x : Word) :
    (f.image x).getLsbD 0 = f.CF ∧ (f.image x).getLsbD 2 = f.PF ∧ (f.image x).getLsbD 4 = f.AF
      ∧ (f.image x).getLsbD 6 = f.ZF ∧ (f.image x).getLsbD 7 = f.SF ∧ (f.image x).getLsbD 8 = f.TF
      ∧ (f.image x).getLsbD 9 = f.IF ∧ (f.image x).getLsbD 10 = f.DF ∧ (f.image x).getLsbD 11 = f.OF := by
  have h := f.ofImage_image x
  exact ⟨congrArg Flags.CF h, congrArg Flags.PF h, congrArg Flags.AF h, congrArg Flags.ZF h, congrArg Flags.SF h,
    congrArg Flags.TF h, congrArg Flags.IF h, congrArg Flags.DF h, congrArg Flags.OF h⟩

/-- The X positions read as FLAGS_X says (R41). -/
theorem Flags.image_x (f : Flags) (x : Word) {k : Nat} (hk : k < 16) (hx : flagsXMask.getLsbD k = true) :
    (f.image x).getLsbD k = x.getLsbD k := by
  have hplace : ∀ j < 16, flagsXMask.getLsbD j = true → j ∉ [0, 2, 4, 6, 7, 8, 9, 10, 11] := by decide
  have hnot := hplace k hk hx
  simp only [List.mem_cons, List.not_mem_nil, or_false, not_or] at hnot
  simp [Flags.getLsbD_image f x hk, hx, hnot]

theorem Flags.image_mask (f : Flags) (x : Word) : f.image x &&& flagsXMask = x &&& flagsXMask := by
  refine BitVec.eq_of_getLsbD_eq fun k hk => ?_
  simp only [BitVec.getLsbD_and]
  cases hx : flagsXMask.getLsbD k with
  | true => rw [f.image_x x hk hx]
  | false => simp

/-- LAHF delivers the low byte of the word (R178). -/
theorem Flags.getLsbD_lowImage (f : Flags) (x : Word) {k : Nat} (hk : k < 8) :
    (f.lowImage x).getLsbD k = (f.image x).getLsbD k := by
  simp [Flags.lowImage, hk]

/-- Settles O25: every bit of FLAGS as a word, and the byte that LAHF and SAHF pass. -/
theorem flagTransfers : Obligations.FlagTransfers := by
  refine ⟨fun f x => ⟨f.ofImage_image x, f.image_mask x, f.image_flags x⟩, fun s => ⟨?lahf, ?sahf⟩⟩
  case lahf =>
    obtain ⟨hcf, hpf, haf, hzf, hsf, -⟩ := s.flags.image_flags s.params.flagsX
    have hx (k : Nat) := s.flags.image_x s.params.flagsX (k := k)
    refine ⟨s.setReg8 .ah (s.flags.lowImage s.params.flagsX), rfl, ?_⟩
    have hlow (k : Nat) (hk : k < 8) := s.flags.getLsbD_lowImage s.params.flagsX hk
    rw [State.reg8_setReg8_same, hlow 7 (by decide), hlow 6 (by decide), hlow 5 (by decide), hlow 4 (by decide),
      hlow 3 (by decide), hlow 2 (by decide), hlow 1 (by decide), hlow 0 (by decide)]
    exact ⟨(Reading.refl s).setsRegs.setReg .byte .spAh _, hsf, hzf, haf, hpf, hcf, hx 5 (by decide) (by decide),
      hx 3 (by decide) (by decide), hx 1 (by decide) (by decide)⟩
  case sahf =>
    exact ⟨_, rfl, SameRegs.ofFlags s _ s.draws, SameMemory.refl s, (Reading.refl s).toTraffic.sameControl, rfl⟩

end Sys2Proof.Machine
end

section
/-! PROOFS. NMI: its edge is latched at a step's sample, and a pending one is taken at a boundary (O53). -/

namespace Sys2Proof.Machine

theorem State.edgeSeen_started {s : State} (h : s.fresh = false) (p : PinSample) : s.edgeSeen p = p.nmi := by
  simp [State.edgeSeen, h]

theorem State.edgeSeen_none {p : PinSample} (h : p.nmi = false) (s : State) : s.edgeSeen p = false := by
  simp [State.edgeSeen, h]

/-- The latch after a step's sample: an edge seen in the sample is latched (R433). -/
theorem State.Sampled.nmiLatch {s u : State} (h : s.Sampled u) :
    (s.env = [] → u.nmiLatch = s.nmiLatch)
      ∧ ∀ p ps, s.env = p :: ps → u.nmiLatch = (s.nmiLatch || s.edgeSeen p) := by
  obtain ⟨v, hv, -, rfl⟩ := h
  obtain ⟨q, b, d, n, hreclaim⟩ := v.reclaimBus_form
  have hlatch : v.reclaimBus.nmiLatch = v.nmiLatch := by rw [hreclaim]
  rw [hlatch]
  rcases hv with ⟨henv, rfl⟩ | ⟨p, ps, henv, -, -, rfl⟩
  · exact ⟨fun _ => rfl, fun _ _ h => (nomatch henv.symm.trans h)⟩
  · refine ⟨fun h => (nomatch henv.symm.trans h), fun p' ps' h => ?_⟩
    obtain ⟨rfl, -⟩ := List.cons.inj (henv.symm.trans h)
    rfl

/-- A pending NMI is recognised before anything else, but for a trap due right after a hardware sequence (R438). -/
theorem State.recognised_nmi {s : State} (hfresh : s.fresh = false) (hseq : s.afterSeq = false ∨ s.trapDue = false)
    (hnmi : s.nmiLatch = true) : s.recognised = some (0x02#8, { s with nmiLatch := false, lock := false }) := by
  have hext : s.external = some (0x02#8, { s with nmiLatch := false, lock := false }) := by
    simp [State.external, State.externalAt, hnmi]
  rcases hseq with h | h <;> simp [State.recognised, hfresh, h, State.trap, hext]

/-- Settles O53: an edge is latched when it is seen, and the latched NMI is recognised and taken. -/
theorem nmiTaken : Obligations.NmiTaken := by
  refine ⟨fun s p => ⟨fun hf => State.edgeSeen_started hf p, fun hp => State.edgeSeen_none hp s⟩, fun s u hs => ?_,
    fun s u hs hp hf hfresh hseq hnmi => ?_⟩
  · obtain ⟨hnone, hsome⟩ := hs.nmiLatch
    refine ⟨hnone, fun p ps henv => ⟨fun hf => ?_, fun hp => ?_⟩⟩
    · rw [hsome p ps henv, State.edgeSeen_started hf]
    · rw [hsome p ps henv, State.edgeSeen_none hp, Bool.or_false]
  · obtain ⟨htaken, hlatch, htrap, hafter, hfull, hsti⟩ := State.takeInterrupt_taken (s := u)
      (u := { u with nmiLatch := false, lock := false }) (nmi := false) (trap := u.trapDue) (Reading.refl _) 0x02#8
    exact ⟨_, step_takes hs hp hf (State.recognised_nmi hfresh hseq hnmi), htaken, hlatch, htrap, hafter, hfull, hsti⟩

end Sys2Proof.Machine
end

section
/-! PROOFS. What a fetch delivers and what a prefetch puts in the queue (O60). -/

namespace Sys2Proof.Machine

/-! ## The fetch -/

/-- A byte that waits in the queue is delivered as it is (R70). -/
theorem State.fetchOne_queued {s : State} {b : Byte} {q : List Byte} (h : s.queue = b :: q) :
    s.fetchOne = (b, { s with IP := s.IP + 1#16, queue := q }) := by
  simp only [State.fetchOne, h, List.isEmpty_cons, Bool.false_eq_true, if_false]

/-- Where no other master writes, an arbitration changes the requests alone (R80, D7). -/
theorem State.arbitrate_undisturbed {s : State} (h : s.Undisturbed) (g : Gap) :
    ∃ gs rs, s.arbitrate g = { s with gaps := gs, requests := rs } := by
  rcases h with h | ⟨hr, hg⟩
  · simp only [State.arbitrate, h, Bool.and_false, Bool.false_eq_true, if_false]
    exact ⟨_, _, rfl⟩
  · exact ⟨s.gaps, s.requests, s.arbitrate_quiet g hr hg⟩

/-- With an empty queue the byte is read by a Code Access cycle (R70, R77). -/
theorem State.fetchOne_empty {s : State} (h : s.queue = []) (hu : s.Undisturbed) :
    ∃ gs rs, s.fetchOne =
      (s.physByte (phys s.CS s.IP),
        { (s.readCycle .code .codeOrNone (phys s.CS s.IP)).2 with
          IP := s.IP + 1#16, queue := [], gaps := gs, requests := rs }) := by
  obtain ⟨gs, rs, e⟩ := s.arbitrate_undisturbed hu .free
  refine ⟨gs, rs, ?_⟩
  simp only [State.fetchOne, h, List.isEmpty_nil, if_true, e]
  rfl

/-! ## Prefetches -/

/-- Bytes prefetched one after another: they come behind the queue, by Code Access cycles, from the addresses that come
next, as memory holds them (R45, R85). -/
theorem State.prefetchMany_appends (n : Nat) (s : State) :
    ∃ q b, (State.prefetchMany n s).queue = s.queue ++ q ∧ (State.prefetchMany n s).bus = b ++ s.bus
      ∧ (∀ c ∈ b, c.kind = .code)
      ∧ ∀ (k : Nat) (x : Byte) (a : PAddr), q[k]? = some x →
        a = phys s.CS ((if s.waiting then s.IP + 1#16 else s.IP) + BitVec.ofNat 16 (s.queue.length + k)) →
        s.Remembers a → x = s.byteAt a := by
  induction n generalizing s with
  | zero => exact ⟨[], [], by simp [State.prefetchMany], rfl, nofun, nofun⟩
  | succ n ih =>
    obtain ⟨q, b, hq, hb, hcode, hbyte⟩ := ih s.prefetchOne
    refine ⟨s.physByte s.prefetchAddr :: q,
      b ++ [s.cycle .code .codeOrNone (some s.prefetchAddr) (some (s.physByte s.prefetchAddr))],
      hq.trans (List.append_assoc ..), ?_, fun c hc => ?_, fun k x a hk ha hr => ?_⟩
    · rw [List.append_assoc]
      exact hb
    · rcases List.mem_append.mp hc with hc | hc
      · exact hcode c hc
      · rw [List.mem_singleton.mp hc]
        rfl
    · cases k with
      | zero =>
        obtain rfl := Option.some.inj hk
        subst ha
        exact State.physByte_remembers hr
      | succ k =>
        have hlen : s.prefetchOne.queue.length + k = s.queue.length + (k + 1) := by
          show (s.queue ++ [_]).length + k = _
          simp only [List.length_append, List.length_singleton]
          omega
        exact hbyte k x a hk (by rw [hlen]; exact ha) hr

/-- A prefetch puts bytes behind the queue as memory holds them (R85). -/
theorem State.prefetch_appends (s : State) :
    ∃ q b d n, s.prefetch = { s with queue := s.queue ++ q, bus := b ++ s.bus, devIn := d, draws := n }
      ∧ (∀ c ∈ b, c.kind = .code)
      ∧ ∀ (k : Nat) (x : Byte) (a : PAddr), q[k]? = some x →
        a = phys s.CS ((if s.waiting then s.IP + 1#16 else s.IP) + BitVec.ofNat 16 (s.queue.length + k)) →
        s.Remembers a → x = s.byteAt a := by
  unfold State.prefetch State.prefetchIf
  simp only []
  split
  · obtain ⟨q, b, hq, hb, hcode, hbyte⟩ := State.prefetchMany_appends
      (Config.freeChoice s.draws % (4 - s.queue.length + 1)) { s with draws := s.draws + 1 }
    rw [hq, hb]
    exact ⟨q, b, _, _, rfl, hcode, hbyte⟩
  · exact ⟨[], [], s.devIn, s.draws, by simp, nofun, nofun⟩

/-! ## Instructions -/

/-- A change of control empties the queue or leaves it (R330, R85). -/
theorem ControlChange.queue {i : Instr} {u t : State} (h : ControlChange i u t) : t.queue = [] ∨ t.queue = u.queue := by
  cases h with
  | near | far | iret | interrupt => exact .inl rfl
  | segment sr => cases sr <;> exact .inr rfl
  | _ => exact .inr rfl

/-- Settles O60: the fetch by the queue, the prefetch by its bytes, and instructions by what they leave of the queue. -/
theorem fetchDelivers : Obligations.FetchDelivers := by
  refine ⟨fun s => ⟨fun b q h => State.fetchOne_queued h, fun h hu => ?_, rfl, fun _ => rfl, rfl⟩, fun s => ?_,
    fun _ _ _ => rfl, fun i s t h => ?_⟩
  · obtain ⟨gs, rs, e⟩ := State.fetchOne_empty h hu
    rw [e]
    exact ⟨rfl, rfl, rfl, State.physByte_remembers⟩
  · obtain ⟨q, b, d, n, e, hcode, hbyte⟩ := s.prefetch_appends
    have hlen := s.prefetch_reading.queue
    rw [e] at hlen
    exact ⟨q, b, d, n, e, hlen, hcode, hbyte, State.prefetch_halted⟩
  · obtain ⟨u, ⟨-, hcycles⟩, hchange⟩ := exec_mayLead h
    obtain ⟨q, hq⟩ := hcycles.front
    exact hchange.queue.imp_right fun e => ⟨q, e.trans hq.symm⟩

end Sys2Proof.Machine
end

section
/-! PROOFS. Other masters between the bus cycles of one instruction (O58): what one request does in the gap it comes in,
XCHG and a word read around it, and instructions that run no bus cycle. -/

namespace Sys2Proof.Machine

/-! ## One gap -/

/-- Before a bus cycle the bus may be given away where LOCK is not active (R82). -/
theorem State.mayGrant_free (s : State) : s.mayGrant .free = true ↔ ¬ (s.lock = true ∧ s.params.mode = .max) := by
  rw [← State.lockActive_iff]
  simp [State.mayGrant]

/-- Between the bytes of a word it may be given away in minimum mode (R82, R83). -/
theorem State.mayGrant_wordHalf (s : State) : s.mayGrant .wordHalf = true ↔ s.params.mode = .min := by
  simp [State.mayGrant]

/-- A gap before which nobody asks for the bus leaves memory, and no request (R80). -/
theorem State.gap_unasked {s : State} (g : Gap) (hr : s.requests = []) (hg : s.gaps.headD [] = []) :
    (s.gap g).requests = [] ∧ ∀ y, (s.gap g).byteAt y = s.byteAt y := by
  have hasked : (s.prefetchIf (g == .free)).requests ++ (s.prefetchIf (g == .free)).gaps.headD [] = [] := by
    show s.requests ++ s.gaps.headD [] = []
    rw [hr, hg, List.nil_append]
  refine ⟨?_, fun y => ?_⟩
  · simp only [State.gap, State.arbitrate, hasked, ite_self]
  · simp only [State.gap, State.arbitrate, hasked, State.byteAt, inOrder, List.filter_nil, List.append_nil,
      List.flatMap_nil, State.honour, ite_self, State.prefetchIf_mem]

section
variable {s : State} {r : BusRequest} {a : PAddr} {b : Byte} (hm : s.params.otherMasters = true)
  (hr : s.requests = []) (hg : s.gaps.headD [] = [r]) (hw : r.writes = [(a, b)])
  (ha : kindAt s.params.memMap a = .ram)
include hm hr hg hw ha

/-- One request in a gap is honored there, or recorded where the bus may not be given away (R80, R82). -/
theorem State.gap_asked (g : Gap) :
    (s.gap g).requests = (if s.mayGrant g then [] else [r])
      ∧ ∀ y, (s.gap g).byteAt y = if y = a ∧ s.mayGrant g = true then b else s.byteAt y := by
  have hasked : (s.prefetchIf (g == .free)).requests ++ (s.prefetchIf (g == .free)).gaps.headD [] = [r] := by
    show s.requests ++ s.gaps.headD [] = [r]
    rw [hr, hg, List.nil_append]
  have hgrant : (s.prefetchIf (g == .free)).mayGrant g = s.mayGrant g := by cases g <;> rfl
  have horder : (inOrder [r]).flatMap (fun q => q.writes) = [(a, b)] := by
    cases hp : r.pin <;> simp [inOrder, hp, hw]
  refine ⟨?_, fun y => ?_⟩
  · simp only [State.gap, State.arbitrate, hasked, hgrant]
  · simp only [State.gap, State.arbitrate, hasked, hgrant, horder, State.prefetchIf_params, hm, Bool.and_true]
    cases s.mayGrant g with
    | false => simp [State.byteAt]
    | true =>
      have hstore := State.byteAt_storeByte (s.prefetchIf (g == .free)) a y b
      simp only [State.prefetchIf_params, State.byteAt_prefetchIf] at hstore
      refine hstore.trans ?_
      by_cases hy : y = a
      · subst hy
        simp [ha]
      · simp [hy]

end

/-! ## Cycles around it -/

/-- The byte one read cycle delivers, where memory answers, is the one there after the gap (R64). -/
theorem State.readPhys_byte {s : State} (g : Gap) (sg : SegStatus) {pa : PAddr} (h : s.Remembers pa) :
    (s.readPhys g sg pa).1 = (s.gap g).byteAt pa := State.physByte_remembers (s := s.gap g) h

section
variable {s : State} {r : BusRequest} (hr : s.requests = []) (hg : s.gaps = [[], [r]])
include hr hg

/-- A first read before which nobody asks leaves memory and the request that comes before the second cycle (R80). -/
theorem State.readPhys_first (sg : SegStatus) (pa : PAddr) :
    (s.readPhys .free sg pa).2.requests = [] ∧ (s.readPhys .free sg pa).2.gaps = [[r]]
      ∧ (∀ y, (s.readPhys .free sg pa).2.byteAt y = s.byteAt y)
      ∧ (s.Remembers pa → (s.readPhys .free sg pa).1 = s.byteAt pa) := by
  obtain ⟨hreq, hbyte⟩ := State.gap_unasked (s := s) .free hr (by simp [hg])
  have hgaps : (s.gap .free).gaps = [[r]] := (congrArg List.tail hg : s.gaps.tail = [[r]])
  exact ⟨hreq, hgaps, hbyte, fun h => (State.readPhys_byte .free sg h).trans (hbyte pa)⟩

variable {a x : PAddr} {b : Byte} (hm : s.params.otherMasters = true) (hw : r.writes = [(a, b)])
  (ha : kindAt s.params.memMap a = .ram) (hx : kindAt s.params.memMap x = .ram)
include hm hw ha hx

/-- A byte read and one written back at the same place, with a request between them (R164, R411). -/
theorem State.readWrite_asked (sg : SegStatus) (v : Byte) :
    ((s.readPhys .free sg x).2.writePhys .free sg x v).requests =
        (if s.lock = true ∧ s.params.mode = .max then [r] else [])
      ∧ ((s.readPhys .free sg x).2.writePhys .free sg x v).byteAt x = v
      ∧ ∀ y, y ≠ x → ((s.readPhys .free sg x).2.writePhys .free sg x v).byteAt y =
        if y = a ∧ ¬ (s.lock = true ∧ s.params.mode = .max) then b else s.byteAt y := by
  obtain ⟨hreq, hgaps, hbyte, -⟩ := State.readPhys_first hr hg sg x
  obtain ⟨hreq2, hbyte2⟩ := State.gap_asked (s := (s.readPhys .free sg x).2) hm hreq (by rw [hgaps]; rfl) hw ha .free
  have hgrant : (s.readPhys .free sg x).2.mayGrant .free = true ↔ ¬ (s.lock = true ∧ s.params.mode = .max) :=
    s.mayGrant_free
  have hstore (y : PAddr) : ((s.readPhys .free sg x).2.writePhys .free sg x v).byteAt y =
      if y = x then v else if y = a ∧ ¬ (s.lock = true ∧ s.params.mode = .max) then b else s.byteAt y := by
    refine (State.byteAt_storeByte ((s.readPhys .free sg x).2.gap .free) x y v).trans ?_
    simp only [hbyte2, hbyte, hgrant]
    by_cases hy : y = x
    · subst hy
      exact (if_pos rfl).trans ((if_pos hx).trans (if_pos rfl).symm)
    · rw [if_neg hy, if_neg hy]
  refine ⟨hreq2.trans ?_, (hstore x).trans (if_pos rfl), fun y hy => (hstore y).trans (if_neg hy)⟩
  by_cases hl : s.lock = true ∧ s.params.mode = .max
  · rw [if_neg (fun h => hgrant.mp h hl), if_pos hl]
  · rw [if_pos (hgrant.mpr hl), if_neg hl]

/-- The second byte of a word read with a request between the bytes (R82, R83). -/
theorem State.readHalf_asked (sg : SegStatus) (pa : PAddr) :
    ((s.readPhys .free sg pa).2.readPhys .wordHalf sg x).1 =
        (if x = a ∧ s.params.mode = .min then b else s.byteAt x)
      ∧ ((s.readPhys .free sg pa).2.readPhys .wordHalf sg x).2.requests =
        (if s.params.mode = .max then [r] else []) := by
  obtain ⟨hreq, hgaps, hbyte, -⟩ := State.readPhys_first hr hg sg pa
  obtain ⟨hreq2, hbyte2⟩ :=
    State.gap_asked (s := (s.readPhys .free sg pa).2) hm hreq (by rw [hgaps]; rfl) hw ha .wordHalf
  have hgrant : (s.readPhys .free sg pa).2.mayGrant .wordHalf = true ↔ s.params.mode = .min := s.mayGrant_wordHalf
  constructor
  · simp only [State.readPhys_byte (s := (s.readPhys .free sg pa).2) .wordHalf sg (.inl hx), hbyte2, hbyte, hgrant]
  · refine hreq2.trans ?_
    cases hmode : s.params.mode with
    | min => rw [if_pos (hgrant.mpr hmode)]; rfl
    | max => rw [if_neg fun h => (nomatch hmode.symm.trans (hgrant.mp h))]; rfl

end

/-- Writing a register changes no memory and no request. -/
theorem State.setReg_bus (s : State) (w : Width) (n : RegNum) (v : BitVec w.bits) :
    (s.setReg w n v).requests = s.requests ∧ ∀ y, (s.setReg w n v).byteAt y = s.byteAt y := by
  obtain ⟨_, _, _, _, _, _, _, _, h⟩ := State.setReg_form s w n v
  rw [h]
  exact ⟨rfl, fun _ => rfl⟩

/-! ## Instructions that run no bus cycle -/

/-- A change of control runs no bus cycle and stores nothing. -/
theorem ControlChange.bus {i : Instr} {u t : State} (h : ControlChange i u t) :
    t.bus = u.bus ∧ t.gaps = u.gaps ∧ t.requests = u.requests ∧ t.mem = u.mem := by
  cases h with
  | segment sr => cases sr <;> exact ⟨rfl, rfl, rfl, rfl⟩
  | _ => exact ⟨rfl, rfl, rfl, rfl⟩

/-- An instruction that runs no bus cycle lets no other master in (R80, R475). -/
theorem exec_noCycle {i : Instr} {s t : State} (h : exec i s = .next t) (hb : t.bus = s.bus) :
    t.gaps = s.gaps ∧ t.requests = s.requests ∧ t.mem = s.mem := by
  obtain ⟨u, ⟨-, hcycles⟩, hchange⟩ := exec_mayLead h
  obtain ⟨hbus, hgaps, hreq, hmem⟩ := hchange.bus
  rcases hcycles.active with he | hlt
  · exact ⟨hgaps.trans (congrArg BusPart.gaps he), hreq.trans (congrArg BusPart.requests he),
      hmem.trans (congrArg BusPart.mem he)⟩
  · have hsame : u.busPart.bus = s.busPart.bus := hbus.symm.trans hb
    exact absurd (congrArg List.length hsame).symm (Nat.ne_of_lt hlt)

/-- Settles O58: the request that comes before the second cycle, seen from XCHG and from a word read; instructions
without a bus cycle; and LOCK and S5 on a cycle. -/
theorem mastersBetweenCycles : Obligations.MastersBetweenCycles := by
  refine ⟨fun s m reg a x b r hm hr hw hg ha hx => ⟨?exchange, ?word⟩, fun i s t h hb => ?quiet, fun _ => State.lockActive_iff,
    fun s k sg pa d => ?cycle⟩
  case exchange =>
    rintro rfl
    obtain ⟨-, -, -, hread⟩ := State.readPhys_first hr hg (segStatusOf (s.segOf m)) (phys (s.segValue m) (s.ea m))
    obtain ⟨hreq, hat, hother⟩ :=
      State.readWrite_asked hr hg hm hw ha hx (segStatusOf (s.segOf m)) (s.reg .byte reg)
    refine ⟨_, rfl, (State.reg_setReg_same _ .byte reg _).trans (hread (.inl hx)), ?_, ?_, fun y hy => ?_⟩
    · exact ((State.setReg_bus _ .byte reg _).2 _).trans hat
    · exact (State.setReg_bus _ .byte reg _).1.trans hreq
    · exact ((State.setReg_bus _ .byte reg _).2 y).trans (hother y hy)
  case word =>
    rintro rfl hrem
    obtain ⟨-, -, -, hlow⟩ := State.readPhys_first hr hg (segStatusOf (s.segOf m)) (phys (s.segValue m) (s.ea m))
    obtain ⟨hhigh, hreq⟩ := State.readHalf_asked hr hg hm hw ha hx (segStatusOf (s.segOf m))
      (phys (s.segValue m) (s.ea m))
    refine ⟨_, rfl, ?_, ?_, (State.setReg_bus _ .word reg _).1.trans hreq⟩
    · exact (congrArg lowByte (State.reg_setReg_same _ .word reg _)).trans ((lowByte_wordOf _ _).trans (hlow hrem))
    · exact (congrArg highByte (State.reg_setReg_same _ .word reg _)).trans ((highByte_wordOf _ _).trans hhigh)
  case quiet =>
    obtain ⟨hgaps, hreq, hmem⟩ := exec_noCycle h hb
    exact ⟨hgaps, hreq, fun a => by rw [State.byteAt, hmem]; rfl⟩
  case cycle =>
    have hlock : s.lockActive = decide (s.lock = true ∧ s.params.mode = .max) := by
      rw [Bool.eq_iff_iff, State.lockActive_iff, decide_eq_true_iff]
    rw [← hlock]
    rfl

end Sys2Proof.Machine
end
